-- ==== Sys2Proof/Word.lean ====
section
/-!
DEFINITION. The word types of the block (rule R8: every word is unsigned).
-/

namespace Sys2Proof

/-- `u32`: hash, schedule and working words, command words, word registers (rules R7, R8). -/
abbrev Word := BitVec 32

/-- `u8` (rule R8). -/
abbrev Byte := BitVec 8

/-- `u64`: the bit-length counter LEN (rule R26). -/
abbrev DWord := BitVec 64

/-- A byte offset in the 256-byte register window, 0x000 to 0x0FF (rule R60). -/
abbrev Offset := BitVec 8

end Sys2Proof
end

