-- ==== Sys2Proof/Syntax.lean ====
section
/-!
DEFINITION. The command set, version 1: one constructor per row of the opcode map (rule R94).
N and ALG keep all eight bits of their fields: values the block refuses are still decoded
commands (rule R98).
-/

namespace Sys2Proof

/-- A command of the block (rule R94). `n` is the byte count N (rule R91), `alg` the algorithm
selector ALG (rule R92). -/
inductive Instr where
  /-- NOP (rule R250). -/
  | nop
  /-- SHA.INIT (rule R145). -/
  | shaInit
  /-- SHA.UPDATE N (rule R146). -/
  | shaUpdate (n : Byte)
  /-- SHA.FINAL (rule R147). -/
  | shaFinal
  /-- HMAC.BEGIN ALG (rule R181). -/
  | hmacBegin (alg : Byte)
  /-- HMAC.KEY N (rule R183). -/
  | hmacKey (n : Byte)
  /-- HMAC.KEYEND (rule R184). -/
  | hmacKeyend
  /-- HMAC.MSG N (rule R185). -/
  | hmacMsg (n : Byte)
  /-- HMAC.FINAL (rule R186). -/
  | hmacFinal
  /-- CMP.BEGIN (rule R231). -/
  | cmpBegin
  /-- CMP.FEED N (rule R232). -/
  | cmpFeed (n : Byte)
  /-- CMP.END (rule R233). -/
  | cmpEnd
  /-- SOFT_RESET (rule R251). -/
  | softReset
deriving DecidableEq, Repr

end Sys2Proof
end

