-- ==== Sys2Proof/WellFormed.lean ====
section
/-!
DEFINITION. Which commands have operand values the block accepts (rules R91, R92). A command that
is not well formed is still decoded and executed: it raises BAD_LEN or UNSUPPORTED_ALG (rule R98).
-/

namespace Sys2Proof

/-- N is legal: "Legal values 0..64" (rule R91). -/
def legalCount (n : Byte) : Bool := n.toNat ≤ 64

/-- ALG is legal: "The value 0x01 means SHA-256 ... every other value, including 0x00, is an
unsupported algorithm" (rule R92). -/
def legalAlg (alg : Byte) : Bool := alg == 0x01

/-- A command's operand values are ones the block accepts (rules R91, R92, R98). -/
def Instr.wf : Instr → Bool
  | .nop => true
  | .shaInit => true
  | .shaUpdate n => legalCount n
  | .shaFinal => true
  | .hmacBegin alg => legalAlg alg
  | .hmacKey n => legalCount n
  | .hmacKeyend => true
  | .hmacMsg n => legalCount n
  | .hmacFinal => true
  | .cmpBegin => true
  | .cmpFeed n => legalCount n
  | .cmpEnd => true
  | .softReset => true

end Sys2Proof
end

