-- ==== Sys2Proof/Decode.lean ====
section
/-!
DEFINITION. The command word's fields (rule R90), the opcode map (rule R94), the total decoder
(rules R96, R97) and the encoder (rule R101).
-/

namespace Sys2Proof

/-- OP, bits 7:0 (rule R90). -/
def fieldOp (c : Word) : Byte := c.extractLsb' 0 8

/-- N, bits 15:8 (rules R90, R91). -/
def fieldN (c : Word) : Byte := c.extractLsb' 8 8

/-- ALG, bits 23:16 (rules R90, R92). -/
def fieldAlg (c : Word) : Byte := c.extractLsb' 16 8

/-- RSV, bits 31:24 (rules R90, R93). -/
def fieldRsv (c : Word) : Byte := c.extractLsb' 24 8

/-- One row of the opcode map: its match and mask, and the command read from a word of the row. -/
structure OpcodeRow where
  matchBits : Word
  mask : Word
  build : Word → Instr

/-- The rows of the control commands and the hash unit's direct commands (rule R94). -/
def opcodeRowsSha : List OpcodeRow :=
  [ ⟨0x00000000, 0xFFFFFFFF, fun _ => .nop⟩,
    ⟨0x00000001, 0xFFFFFFFF, fun _ => .shaInit⟩,
    ⟨0x00000002, 0xFFFF00FF, fun c => .shaUpdate (fieldN c)⟩,
    ⟨0x00000003, 0xFFFFFFFF, fun _ => .shaFinal⟩ ]

/-- The rows of the HMAC sequencer (rule R94). -/
def opcodeRowsHmac : List OpcodeRow :=
  [ ⟨0x00000010, 0xFF00FFFF, fun c => .hmacBegin (fieldAlg c)⟩,
    ⟨0x00000011, 0xFFFF00FF, fun c => .hmacKey (fieldN c)⟩,
    ⟨0x00000012, 0xFFFFFFFF, fun _ => .hmacKeyend⟩,
    ⟨0x00000013, 0xFFFF00FF, fun c => .hmacMsg (fieldN c)⟩,
    ⟨0x00000014, 0xFFFFFFFF, fun _ => .hmacFinal⟩ ]

/-- The rows of the comparison unit and SOFT_RESET (rule R94). -/
def opcodeRowsCmp : List OpcodeRow :=
  [ ⟨0x00000020, 0xFFFFFFFF, fun _ => .cmpBegin⟩,
    ⟨0x00000021, 0xFFFF00FF, fun c => .cmpFeed (fieldN c)⟩,
    ⟨0x00000022, 0xFFFFFFFF, fun _ => .cmpEnd⟩,
    ⟨0x000000FF, 0xFFFFFFFF, fun _ => .softReset⟩ ]

/-- The complete opcode map (rule R94). -/
def opcodeMap : List OpcodeRow := opcodeRowsSha ++ opcodeRowsHmac ++ opcodeRowsCmp

/-- "A word is a command of a row iff `(c & mask) = match`" (rule R94). -/
def OpcodeRow.accepts (r : OpcodeRow) (c : Word) : Bool := (c &&& r.mask) == r.matchBits

/-- Why a word is illegal: the three kinds of rule R97. -/
inductive IllegalWord where
  /-- (a) an OP value not in the map, with any field values. -/
  | unknownOp
  /-- (b) a listed OP with a non-zero RSV. -/
  | reservedNonzero
  /-- (c) a listed OP with a non-zero field the row does not use. -/
  | unusedField
deriving DecidableEq, Repr

/-- Whether OP is an opcode of the map. -/
def listedOp (op : Byte) : Bool := opcodeMap.any fun r => fieldOp r.matchBits == op

/-- The kind of an illegal word (rule R97). All three are served alike, as ILLEGAL_CMD. -/
def illegalKind (c : Word) : IllegalWord :=
  if !listedOp (fieldOp c) then .unknownOp
  else if fieldRsv c ≠ 0 then .reservedNonzero
  else .unusedField

/-- The decoder: "every one of the 2^32 words is either one row's command or ILLEGAL_CMD"
(rule R96). -/
def decode (c : Word) : Except IllegalWord Instr :=
  match opcodeMap.find? (·.accepts c) with
  | some r => .ok (r.build c)
  | none => .error (illegalKind c)

/-- `enc(OP, N, ALG) = OP | (N << 8) | (ALG << 16)` (rule R101). -/
def enc (op n alg : Byte) : Word :=
  op.setWidth 32 ||| (n.setWidth 32 <<< 8) ||| (alg.setWidth 32 <<< 16)

/-- The command word of a command (rules R94, R101). -/
def encode : Instr → Word
  | .nop => enc 0x00 0 0
  | .shaInit => enc 0x01 0 0
  | .shaUpdate n => enc 0x02 n 0
  | .shaFinal => enc 0x03 0 0
  | .hmacBegin alg => enc 0x10 0 alg
  | .hmacKey n => enc 0x11 n 0
  | .hmacKeyend => enc 0x12 0 0
  | .hmacMsg n => enc 0x13 n 0
  | .hmacFinal => enc 0x14 0 0
  | .cmpBegin => enc 0x20 0 0
  | .cmpFeed n => enc 0x21 n 0
  | .cmpEnd => enc 0x22 0 0
  | .softReset => enc 0xFF 0 0

/-- The command word whose bits the opcode table numbers as `w`: one 32-bit word (rule R90); bits
at and above `nbits` are 0. -/
def tableWord (nbits w : Nat) : Word := BitVec.ofNat 32 (w % 2 ^ nbits)

/-- What the decoder reads from a table-numbered word; none where it refuses. -/
def decodeTableWord (nbits w : Nat) : Option Instr := (decode (tableWord nbits w)).toOption

end Sys2Proof
end

