-- ==== Sys2Proof/Machine/State.lean ====
section
/-!
DEFINITION. The state of the block: every element of rule R20, grouped by unit, and two lists that
are the model's own: the bus accesses still to be served and the responses already given.
-/

namespace Sys2Proof.Machine

/-- HS, the hash-unit state (rule R32). The code 7 is "never entered", so it is no constructor. -/
inductive HS where
  /-- 0: nothing computed since reset. -/
  | idle
  /-- 1: a direct SHA-256 computation is absorbing message bytes. -/
  | sha
  /-- 2: DOUT holds a SHA-256 digest. -/
  | shaDone
  /-- 3: an HMAC context is receiving its key; at most 64 bytes so far. -/
  | hkey
  /-- 4: an HMAC context is receiving its key; more than 64 bytes, being hashed. -/
  | hkeyh
  /-- 5: an HMAC context is absorbing its message into the inner hash. -/
  | hmsg
  /-- 6: DOUT holds an HMAC-SHA256 result. -/
  | hmacDone
deriving DecidableEq, Repr

/-- CS, the comparison-unit state (rule R33). The code 3 is "never entered". -/
inductive CS where
  /-- 0: no comparison since reset. -/
  | idle
  /-- 1: lengths equal, bytes being fed. -/
  | active
  /-- 2: EQ holds the verdict. -/
  | done
deriving DecidableEq, Repr

/-- The error codes ERRCODE can hold (rule R261); 0x06–0xFF are never produced. -/
inductive ErrCode where
  /-- 0x00: no error. -/
  | none
  /-- 0x01: the word matches no row of the opcode map. -/
  | illegalCmd
  /-- 0x02: N > 64, or N > CMP_REMAIN for CMP.FEED. -/
  | badLen
  /-- 0x03: ALG ≠ 0x01. -/
  | unsupportedAlg
  /-- 0x04: the command is not legal in the current HS or CS. -/
  | sequence
  /-- 0x05: CMP.END while bytes remain to be fed. -/
  | cmpIncomplete
deriving DecidableEq, Repr

/-- The working variables of the round processor (rule R22). -/
structure Working where
  a : Word
  b : Word
  c : Word
  d : Word
  e : Word
  f : Word
  g : Word
  h : Word
deriving DecidableEq, Repr

/-- The SHA-256 datapath registers (rules R21–R26). -/
structure Datapath where
  /-- H[0..7], the HashState (rule R21). -/
  h : Vector Word 8
  /-- a..h (rule R22). -/
  wv : Working
  /-- W[0..63], the MessageSchedule (rule R23). -/
  w : Vector Word 64
  /-- RC, the round counter (rule R24). -/
  rc : BitVec 7
  /-- BUF[0..63], the partial block (rule R25). -/
  buf : Vector Byte 64
  /-- BLEN, the buffered byte count, 0 to 63 (rule R25). -/
  blen : BitVec 6
  /-- LEN, the absorbed bit length modulo 2^64 (rule R26). -/
  len : DWord
  /-- The MODEL's own count of compressions since reset (rule R296); nothing reads it. -/
  compressions : Nat
deriving DecidableEq, Repr

/-- The HMAC context's registers (rules R27, R28). -/
structure MacRegs where
  /-- KEY[0..63] (rule R27). -/
  key : Vector Byte 64
  /-- KLEN, the key byte count, saturating at 65 (rule R27). -/
  klen : BitVec 7
  /-- IDIG[0..31], the inner digest (rule R28). -/
  idig : Vector Byte 32
deriving DecidableEq, Repr

/-- The comparison unit's registers (rules R31, R33). -/
structure CmpRegs where
  /-- CMP_LEN_A. -/
  lenA : Word
  /-- CMP_LEN_B. -/
  lenB : Word
  /-- CMP_REMAIN. -/
  remain : Word
  /-- ACC, the accumulator. -/
  acc : Byte
  /-- EQ, the verdict. -/
  eq : Bool
  /-- CS. -/
  cs : CS
deriving DecidableEq, Repr

/-- The error state (rule R34). -/
structure ErrRegs where
  /-- ERR: the block is locked by a command error. -/
  locked : Bool
  /-- ERRCODE. -/
  code : ErrCode
  /-- ERRCMD: the complete command word that raised the error. -/
  cmd : Word
deriving DecidableEq, Repr

/-- What reaches the block's port: a bus access, "a tuple (offset, size, direction, write data)"
(rule R61), or the one atomic hardware reset event (rule R290). -/
inductive BusEvent where
  /-- A read of `size` bytes at `off`. -/
  | read (off : Offset) (size : Nat)
  /-- A write of `size` bytes at `off`; `v` is the write data of a 32-bit access. -/
  | write (off : Offset) (size : Nat) (v : Word)
  /-- Hardware reset. -/
  | hardReset
deriving DecidableEq, Repr

/-- What the bus gives back for an access (rules R61, R62, R266). -/
inductive Response where
  /-- An accepted read returns a value. -/
  | readData (v : Word)
  /-- An accepted write has completed. -/
  | written
  /-- A bus error response to a read, with the data returned to the master. -/
  | readError (v : Word)
  /-- A bus error response to a write. -/
  | writeError
deriving DecidableEq, Repr

/-- The state of the machine (rule R20, and the model's own port and responses). -/
structure State where
  /-- The SHA-256 datapath (rules R21–R26). -/
  dp : Datapath
  /-- The HMAC context (rules R27, R28). -/
  mac : MacRegs
  /-- The comparison unit (rules R31, R33). -/
  cmp : CmpRegs
  /-- The error state (rule R34). -/
  err : ErrRegs
  /-- HS (rule R32). -/
  hs : HS
  /-- DOUT[0..31] (rule R29). -/
  dout : Vector Byte 32
  /-- DATA[0..63] (rule R30). -/
  data : Vector Byte 64
  /-- DATB[0..63] (rule R30). -/
  datb : Vector Byte 64
  /-- The MODEL's own: the bus events not served yet, in the order of rule R72. -/
  port : List BusEvent
  /-- The MODEL's own: the responses given so far, oldest first (rule R298). -/
  responses : List Response
deriving DecidableEq, Repr

/-- The block has no fault that stops it: a command error is a next state (rule R263), a bus error
is a response (rule R266), and "every legal command completes with its specified effect"
(rule R276). So there is no fault reason. -/
inductive Fault where
deriving DecidableEq, Repr

/-- Why the model refuses an instruction. -/
inductive Refusal where
  /-- Raised by an arm of exec whose instruction has no meaning yet (none in this model); safe: the
  model stops where the hardware goes on. -/
  | notModelled (mnemonic : String)
deriving DecidableEq, Repr

/-- The three outcomes of one step, over this machine's types. -/
abbrev Result := Host.Outcome State Fault Refusal

/-- The datapath's reset values (rule R290). -/
def Datapath.reset : Datapath where
  h := Vector.replicate 8 0
  wv := ⟨0, 0, 0, 0, 0, 0, 0, 0⟩
  w := Vector.replicate 64 0
  rc := 0
  buf := Vector.replicate 64 0
  blen := 0
  len := 0
  compressions := 0

/-- The HMAC registers' reset values (rule R290). -/
def MacRegs.reset : MacRegs where
  key := Vector.replicate 64 0
  klen := 0
  idig := Vector.replicate 32 0

/-- The comparison unit's reset values (rule R290). -/
def CmpRegs.reset : CmpRegs where
  lenA := 0
  lenB := 0
  remain := 0
  acc := 0
  eq := false
  cs := .idle

/-- The error state's reset values (rule R290). -/
def ErrRegs.reset : ErrRegs where
  locked := false
  code := .none
  cmd := 0

/-- The machine right after reset (rules R290, R291): every element zero, HS = CS = IDLE, ERR = 0;
no access pending and none served yet. -/
def State.reset : State where
  dp := .reset
  mac := .reset
  cmp := .reset
  err := .reset
  hs := .idle
  dout := Vector.replicate 32 0
  data := Vector.replicate 64 0
  datb := Vector.replicate 64 0
  port := []
  responses := []

/-! The named updates of State: one per field. -/

def State.withDp (s : State) (x : Datapath) : State := { s with dp := x }
def State.withMac (s : State) (x : MacRegs) : State := { s with mac := x }
def State.withCmp (s : State) (x : CmpRegs) : State := { s with cmp := x }
def State.withErr (s : State) (x : ErrRegs) : State := { s with err := x }
def State.withHs (s : State) (x : HS) : State := { s with hs := x }
def State.withDout (s : State) (x : Vector Byte 32) : State := { s with dout := x }
def State.withData (s : State) (x : Vector Byte 64) : State := { s with data := x }
def State.withDatb (s : State) (x : Vector Byte 64) : State := { s with datb := x }
def State.withPort (s : State) (x : List BusEvent) : State := { s with port := x }
def State.withResponses (s : State) (x : List Response) : State := { s with responses := x }

end Sys2Proof.Machine
end

