-- ==== Sys2Proof/Machine/Flags.lean ====
section
/-!
DEFINITION. The block's only flags: the codes of HS, CS and ERRCODE, the STATUS view (rule R37),
and which states a command is legal in (rules R32, R188, R231–R233).
-/

namespace Sys2Proof.Machine

/-- The 3-bit code of HS (rule R32). -/
def HS.code : HS → BitVec 3
  | .idle => 0
  | .sha => 1
  | .shaDone => 2
  | .hkey => 3
  | .hkeyh => 4
  | .hmsg => 5
  | .hmacDone => 6

/-- The 2-bit code of CS (rule R33). -/
def CS.code : CS → BitVec 2
  | .idle => 0
  | .active => 1
  | .done => 2

/-- The error code byte (rule R261). -/
def ErrCode.byte : ErrCode → Byte
  | .none => 0x00
  | .illegalCmd => 0x01
  | .badLen => 0x02
  | .unsupportedAlg => 0x03
  | .sequence => 0x04
  | .cmpIncomplete => 0x05

/-- Quiescent states: no digest computation is in progress (rule R32). -/
def HS.quiescent : HS → Bool
  | .idle => true
  | .sha => false
  | .shaDone => true
  | .hkey => false
  | .hkeyh => false
  | .hmsg => false
  | .hmacDone => true

/-- HS ∈ {HKEY, HKEYH}: an HMAC context is receiving its key (rules R183, R184). -/
def HS.keying : HS → Bool
  | .idle => false
  | .sha => false
  | .shaDone => false
  | .hkey => true
  | .hkeyh => true
  | .hmsg => false
  | .hmacDone => false

/-- A one-bit flag as a word. -/
def flagWord (b : Bool) : Word := if b then 1 else 0

/-- `STATUS = ERR | HS<<1 | CS<<4 | EQ<<6 | BLEN<<8 | KLEN<<16` (rule R37). -/
def State.status (s : State) : Word :=
  flagWord s.err.locked
    ||| (s.hs.code.setWidth 32 <<< 1)
    ||| (s.cmp.cs.code.setWidth 32 <<< 4)
    ||| (flagWord s.cmp.eq <<< 6)
    ||| (s.dp.blen.setWidth 32 <<< 8)
    ||| (s.mac.klen.setWidth 32 <<< 16)

/-- ERRCODE as it is read: bits 31:8 read 0 (rules R34, R63). -/
def State.errcodeWord (s : State) : Word := s.err.code.byte.setWidth 32

end Sys2Proof.Machine
end

