-- ==== Sys2Proof/Machine/Operands.lean ====
section
/-!
DEFINITION. The operand forms: the first N bytes of the data windows (rule R91), the bus byte lanes
(rule R64) and the big-endian renderings of the datapath (rules R9, R67).
-/

namespace Sys2Proof.Machine

/-- The first N bytes of a 64-byte window, `DATA[0..N-1]` (rule R91). -/
def firstBytes (n : Byte) (v : Vector Byte 64) : List Byte := v.toList.take n.toNat

/-- The 32-bit word that travels in the bus lanes for bytes i..i+3 of a bytes region: the byte at
the lowest offset in bits 7:0 (rule R64). -/
def laneRead {k : Nat} (r : Vector Byte k) (i : Nat) : Word :=
  (r.getD i 0).setWidth 32
    ||| ((r.getD (i + 1) 0).setWidth 32 <<< 8)
    ||| ((r.getD (i + 2) 0).setWidth 32 <<< 16)
    ||| ((r.getD (i + 3) 0).setWidth 32 <<< 24)

/-- A 32-bit write to bytes i..i+3 of a bytes region (rule R64). -/
def laneWrite {k : Nat} (r : Vector Byte k) (i : Nat) (v : Word) : Vector Byte k :=
  (((r.setIfInBounds i (v.extractLsb' 0 8)).setIfInBounds (i + 1) (v.extractLsb' 8 8)).setIfInBounds
    (i + 2) (v.extractLsb' 16 8)).setIfInBounds (i + 3) (v.extractLsb' 24 8)

/-- `b0<<24 | b1<<16 | b2<<8 | b3`: a big-endian word from four bytes (rule R131). -/
def wordOfBytes (b0 b1 b2 b3 : Byte) : Word :=
  (b0.setWidth 32 <<< 24) ||| (b1.setWidth 32 <<< 16) ||| (b2.setWidth 32 <<< 8) ||| b3.setWidth 32

/-- `BE32(w)`: `w[31:24], w[23:16], w[15:8], w[7:0]` (rule R9). -/
def be32 (w : Word) : List Byte :=
  [w.extractLsb' 24 8, w.extractLsb' 16 8, w.extractLsb' 8 8, w.extractLsb' 0 8]

/-- Byte k of `BE64(v)`: `v[63−8k : 56−8k]`, the most significant byte first (rules R9, R141). -/
def be64Byte (v : DWord) (k : Nat) : Byte := v.extractLsb' (56 - 8 * k) 8

/-- `BE64(v)`, the 8-byte big-endian rendering (rule R9). -/
def be64 (v : DWord) : List Byte := (List.range 8).map (be64Byte v)

end Sys2Proof.Machine
end

