-- ==== Sys2Proof/Machine/Rom.lean ====
section
/-!
DEFINITION. The constants of the block, which are not state (rule R20): the ROMs H0 and K
(rules R35, R120–R122), ID and VERSION (rules R38, R39), the pad bytes (rule R7).
-/

namespace Sys2Proof.Machine

/-! ## The tables, each entry beside the prime it is derived from

"computing them is a pure function of 'which prime index'" (rule R122): an entry is the fractional part
of a root of its prime, as 32 bits (rules R120, R121). -/

/-- The table of rule R120, with its column p: (p_i, H0[i]). -/
def h0Table : List (Nat × Word) :=
  [(2, 0x6a09e667), (3, 0xbb67ae85), (5, 0x3c6ef372), (7, 0xa54ff53a),
   (11, 0x510e527f), (13, 0x9b05688c), (17, 0x1f83d9ab), (19, 0x5be0cd19)]

/-- The table of rule R121 beside its list of primes, t = 0..31: (p_t, K[t]). -/
def kTableLow : List (Nat × Word) :=
  [(2, 0x428a2f98), (3, 0x71374491), (5, 0xb5c0fbcf), (7, 0xe9b5dba5),
   (11, 0x3956c25b), (13, 0x59f111f1), (17, 0x923f82a4), (19, 0xab1c5ed5),
   (23, 0xd807aa98), (29, 0x12835b01), (31, 0x243185be), (37, 0x550c7dc3),
   (41, 0x72be5d74), (43, 0x80deb1fe), (47, 0x9bdc06a7), (53, 0xc19bf174),
   (59, 0xe49b69c1), (61, 0xefbe4786), (67, 0x0fc19dc6), (71, 0x240ca1cc),
   (73, 0x2de92c6f), (79, 0x4a7484aa), (83, 0x5cb0a9dc), (89, 0x76f988da),
   (97, 0x983e5152), (101, 0xa831c66d), (103, 0xb00327c8), (107, 0xbf597fc7),
   (109, 0xc6e00bf3), (113, 0xd5a79147), (127, 0x06ca6351), (131, 0x14292967)]

/-- The table of rule R121 beside its list of primes, t = 32..63: (p_t, K[t]). -/
def kTableHigh : List (Nat × Word) :=
  [(137, 0x27b70a85), (139, 0x2e1b2138), (149, 0x4d2c6dfc), (151, 0x53380d13),
   (157, 0x650a7354), (163, 0x766a0abb), (167, 0x81c2c92e), (173, 0x92722c85),
   (179, 0xa2bfe8a1), (181, 0xa81a664b), (191, 0xc24b8b70), (193, 0xc76c51a3),
   (197, 0xd192e819), (199, 0xd6990624), (211, 0xf40e3585), (223, 0x106aa070),
   (227, 0x19a4c116), (229, 0x1e376c08), (233, 0x2748774c), (239, 0x34b0bcb5),
   (241, 0x391c0cb3), (251, 0x4ed8aa4a), (257, 0x5b9cca4f), (263, 0x682e6ff3),
   (269, 0x748f82ee), (271, 0x78a5636f), (277, 0x84c87814), (281, 0x8cc70208),
   (283, 0x90befffa), (293, 0xa4506ceb), (307, 0xbef9a3f7), (311, 0xc67178f2)]

/-- The table of rule R121: (p_t, K[t]). -/
def kTable : List (Nat × Word) := kTableLow ++ kTableHigh

/-- H0[0..7], the initial hash words (rule R120). -/
def h0Rom : Vector Word 8 := ⟨(h0Table.map Prod.snd).toArray, rfl⟩

/-- K[0..63], the round constants (rule R121). -/
def kRom : Vector Word 64 := ⟨(kTable.map Prod.snd).toArray, rfl⟩

/-- ID always reads 0x53484132, the ASCII bytes "SHA2" (rule R38). -/
def idValue : Word := 0x53484132

/-- VERSION always reads 0x00000001 (rule R39). -/
def versionValue : Word := 0x00000001

/-- IPAD (rules R7, R180). -/
def ipad : Byte := 0x36

/-- OPAD (rules R7, R180). -/
def opad : Byte := 0x5C

end Sys2Proof.Machine
end

