-- ==== Sys2Proof/Machine/Datapath.lean ====
section
/-!
DEFINITION. The SHA-256 datapath: bit functions (rules R123–R129), message scheduler and round
processor (rules R131–R136), absorbing and padding primitives (rules R138–R142). Every operation
here is a function of the datapath's registers alone.
-/

namespace Sys2Proof.Machine

/-! ## Bit functions (rules R123–R129) -/

/-- `rotr(x, n) = (x >> n) | (x << (32 − n)) mod 2^32` (rule R123). -/
def rotr (x : Word) (n : Nat) : Word := (x >>> n) ||| (x <<< (32 - n))

/-- σ0 (rule R124). -/
def smallSigma0 (x : Word) : Word := rotr x 7 ^^^ rotr x 18 ^^^ (x >>> 3)

/-- σ1 (rule R125). -/
def smallSigma1 (x : Word) : Word := rotr x 17 ^^^ rotr x 19 ^^^ (x >>> 10)

/-- Σ0 (rule R126). -/
def bigSigma0 (a : Word) : Word := rotr a 2 ^^^ rotr a 13 ^^^ rotr a 22

/-- Σ1 (rule R127). -/
def bigSigma1 (e : Word) : Word := rotr e 6 ^^^ rotr e 11 ^^^ rotr e 25

/-- Ch, choose (rule R128). -/
def choose (e f g : Word) : Word := (e &&& f) ^^^ (~~~e &&& g)

/-- Maj, majority (rule R129). -/
def majority (a b c : Word) : Word := (a &&& b) ^^^ (a &&& c) ^^^ (b &&& c)

/-! ## Message scheduler and round processor (rules R131–R136) -/

/-- The word formed big-endian from bytes 4j..4j+3 of a block (rule R131). -/
def formWord (b : Vector Byte 64) (j : Nat) : Word :=
  wordOfBytes (b.getD (4 * j) 0) (b.getD (4 * j + 1) 0) (b.getD (4 * j + 2) 0) (b.getD (4 * j + 3) 0)

/-- Word formation: `for j in 0..15: W[j] <- ...` (rule R131). -/
def formWords (b : Vector Byte 64) (w : Vector Word 64) : Vector Word 64 :=
  (List.range 16).foldl (fun w j => w.setIfInBounds j (formWord b j)) w

/-- `W[t-16] + σ0(W[t-15]) + W[t-7] + σ1(W[t-2])`, modulo 2^32 (rules R130, R132). -/
def scheduleWord (w : Vector Word 64) (t : Nat) : Word :=
  w.getD (t - 16) 0 + smallSigma0 (w.getD (t - 15) 0) + w.getD (t - 7) 0
    + smallSigma1 (w.getD (t - 2) 0)

/-- Schedule expansion: `for t in 16..63: W[t] <- ...` (rule R132). -/
def expandSchedule (w : Vector Word 64) : Vector Word 64 :=
  (List.range' 16 48).foldl (fun w t => w.setIfInBounds t (scheduleWord w t)) w

/-- The working-variable load (rule R133). -/
def loadWorking (h : Vector Word 8) : Working :=
  ⟨h[0], h[1], h[2], h[3], h[4], h[5], h[6], h[7]⟩

/-- Round t, with K[t] and W[t] given; all right-hand sides are read before any write (rule R134). -/
def roundWith (k w : Word) (v : Working) : Working :=
  let t1 := v.h + bigSigma1 v.e + choose v.e v.f v.g + k + w
  let t2 := bigSigma0 v.a + majority v.a v.b v.c
  ⟨t1 + t2, v.a, v.b, v.c, v.d + t1, v.e, v.f, v.g⟩

/-- Feed-forward: `H[0] <- H[0]+a; ...; H[7] <- H[7]+h` (rule R135). -/
def feedForward (h : Vector Word 8) (v : Working) : Vector Word 8 :=
  #v[h[0] + v.a, h[1] + v.b, h[2] + v.c, h[3] + v.d, h[4] + v.e, h[5] + v.f, h[6] + v.g, h[7] + v.h]

/-- One round of the processor: t is the round counter RC, which then counts on (rules R24, R134). -/
def Datapath.round (d : Datapath) : Datapath :=
  { d with
    wv := roundWith (kRom.getD d.rc.toNat 0) (d.w.getD d.rc.toNat 0) d.wv
    rc := d.rc + 1 }

/-- The scheduler's work for the block in BUF, and the load of the working variables
(rules R131–R133); the round counter starts at 0 (rule R24). -/
def Datapath.schedule (d : Datapath) : Datapath :=
  { d with w := expandSchedule (formWords d.buf d.w), wv := loadWorking d.h, rc := 0 }

/-- The end of a compression: feed-forward (rule R135), and the round counter back to 0
(rule R24). The model counts the compression. -/
def Datapath.finishBlock (d : Datapath) : Datapath :=
  { d with h := feedForward d.h d.wv, rc := 0, compressions := d.compressions + 1 }

/-- `k` rounds in increasing order (rule R134). -/
def Datapath.rounds : Nat → Datapath → Datapath
  | 0, d => d
  | k + 1, d => Datapath.rounds k d.round

/-- `compress(BUF)`: the scheduler, then round(0) .. round(63), then the feed-forward (rule R136).
BUF is the only block a command ever compresses (rule R139). -/
def Datapath.compress (d : Datapath) : Datapath := (Datapath.rounds 64 d.schedule).finishBlock

/-! ## Absorbing and padding (rules R138–R142) -/

/-- `core_init()` (rule R138): W and the working variables are not touched. -/
def Datapath.coreInit (d : Datapath) : Datapath :=
  { d with h := h0Rom, buf := Vector.replicate 64 0, blen := 0, len := 0 }

/-- `pad_byte(b)` (rule R139): place one byte; compress and clear BLEN when it reaches 64. -/
def Datapath.padByte (b : Byte) (d : Datapath) : Datapath :=
  if d.blen.toNat + 1 = 64 then
    { Datapath.compress { d with buf := d.buf.setIfInBounds d.blen.toNat b } with blen := 0 }
  else
    { d with buf := d.buf.setIfInBounds d.blen.toNat b, blen := d.blen + 1 }

/-- `absorb(b)` (rule R140): LEN counts 8 more bits, modulo 2^64. -/
def Datapath.absorb (b : Byte) (d : Datapath) : Datapath :=
  Datapath.padByte b { d with len := d.len + 8 }

/-- `for i in ..: absorb(bytes[i])`, in increasing index. -/
def Datapath.absorbAll (bytes : List Byte) (d : Datapath) : Datapath :=
  bytes.foldl (fun d b => Datapath.absorb b d) d

/-- A list of bytes through pad_byte, in order. -/
def Datapath.padAll (bytes : List Byte) (d : Datapath) : Datapath :=
  bytes.foldl (fun d b => Datapath.padByte b d) d

/-- `while BLEN ≠ 56: pad_byte(0x00)` (rule R141), with a bound on the turns: at most 63 are ever
needed, `(55 − BLEN) mod 64` after the 0x80 byte. -/
def Datapath.padZeros : Nat → Datapath → Datapath
  | 0, d => d
  | turns + 1, d => if d.blen = 56 then d else Datapath.padZeros turns (Datapath.padByte 0x00 d)

/-- Byte k of the 32-byte digest: "the 8 final state words, each rendered big-endian"
(rule R141). -/
def digestByte (h : Vector Word 8) (k : Nat) : Byte :=
  (h.getD (k / 4) 0).extractLsb' (24 - 8 * (k % 4)) 8

/-- `BE32(H[0]) ++ ... ++ BE32(H[7])` (rule R141). -/
def digestOf (h : Vector Word 8) : Vector Byte 32 := Vector.ofFn fun k => digestByte h k.val

/-- `zeroise()` (rule R142). -/
def Datapath.zeroise (d : Datapath) : Datapath :=
  { d with
    h := Vector.replicate 8 0
    w := Vector.replicate 64 0
    wv := ⟨0, 0, 0, 0, 0, 0, 0, 0⟩
    buf := Vector.replicate 64 0
    blen := 0
    len := 0 }

/-- `finalize()` up to its last compression: 0x80, the zero bytes, the length (rule R141). -/
def Datapath.padMessage (d : Datapath) : Datapath :=
  Datapath.padAll (be64 d.len) (Datapath.padZeros 64 (Datapath.padByte 0x80 d))

/-- What `finalize()` returns (rule R141). -/
def Datapath.finalDigest (d : Datapath) : Vector Byte 32 := digestOf d.padMessage.h

/-- The datapath `finalize()` leaves: padded, then zeroised (rules R141, R142). -/
def Datapath.finalized (d : Datapath) : Datapath := d.padMessage.zeroise

end Sys2Proof.Machine
end

