-- ==== Sys2Proof/Machine/Ops.lean ====
section
/-!
DEFINITION. The named operations the commands share: error entry (rule R263) and the only way out
of it, the block's reset (rules R265, R290), the frame of a command (rules R96, R262, R264), the key
byte primitive (rule R182), the pads (rule R180) and the comparison's accumulation (rule R230).
-/

namespace Sys2Proof.Machine

/-! ## Errors: entering, the locked state, leaving -/

/-- Error entry, `raise Err(code)` for command word c (rule R263): "ERR <- 1 ; ERRCODE <- code ;
ERRCMD <- c". Nothing else changes. -/
def raiseErr (code : ErrCode) (c : Word) (s : State) : State := s.withErr ⟨true, code, c⟩

/-- The reset of the whole block, by SOFT_RESET or the reset input (rules R251, R265, R290): every
state element takes its reset value. The model's own port and responses are not the block's. -/
def resetBlock (s : State) : State :=
  (State.reset.withPort s.port).withResponses s.responses

/-- The first failing check of a list made in order, if any: "the first that fails is the one
reported" (rule R262). -/
def firstFailing : List (ErrCode × Bool) → Option ErrCode
  | [] => none
  | (code, fails) :: rest => if fails then some code else firstFailing rest

/-- The frame of every command but SOFT_RESET: while ERR = 1 the word is ignored (rules R96, R264);
the checks come first, in order, and the first that fails enters the error with the complete command
word (rules R262, R263); else the command has its effect. A check is a pair of the error it raises
and whether it FAILS. -/
def runCommand (i : Instr) (checks : List (ErrCode × Bool)) (effect s : State) : Result :=
  if s.err.locked then .next s
  else
    match firstFailing checks with
    | some code => .next (raiseErr code (encode i) s)
    | none => .next effect

/-- The check "N > 64: raise Err(BAD_LEN)" (rules R91, R262). -/
def badCount (n : Byte) : ErrCode × Bool := (.badLen, decide (64 < n.toNat))

/-- The check "not legal in the current state: raise Err(SEQUENCE)" (rule R262). -/
def badSequence (legal : Bool) : ErrCode × Bool := (.sequence, !legal)

/-! ## The HMAC sequencer's primitives -/

/-- A key held or normalized key with every byte xored with a pad byte (rule R180). -/
def padKey (pad : Byte) (key : Vector Byte 64) : List Byte := key.toList.map (· ^^^ pad)

/-- `key_byte(b)` (rule R182). -/
def keyByte (b : Byte) (s : State) : State :=
  if s.hs = .hkey ∧ s.mac.klen.toNat < 64 then
    s.withMac { s.mac with
      key := s.mac.key.setIfInBounds s.mac.klen.toNat b
      klen := s.mac.klen + 1 }
  else if s.hs = .hkey then
    ((s.withDp ((s.dp.coreInit.absorbAll s.mac.key.toList).absorb b)).withMac
      { s.mac with key := Vector.replicate 64 0, klen := 65 }).withHs .hkeyh
  else
    s.withDp (s.dp.absorb b)

/-- `for i in 0..N−1: key_byte(DATA[i])` (rule R183). -/
def keyBytes (bytes : List Byte) (s : State) : State := bytes.foldl (fun s b => keyByte b s) s

/-- A digest right-padded with zero bytes to 64: `digest ++ 0^32` (rules R180, R184). -/
def extendDigest (d : Vector Byte 32) : Vector Byte 64 := d ++ Vector.replicate 32 (0 : Byte)

/-- The normalization of a key longer than 64 bytes: "KEY <- finalize() ++ 0^32" (rule R184). -/
def finishLongKey (s : State) : State :=
  (s.withMac { s.mac with key := extendDigest s.dp.finalDigest }).withDp s.dp.finalized

/-! ## The comparison unit's accumulation -/

/-- `ACC <- ACC | (A[i] ⊕ B[i])` over the pairs in order; every pair is examined (rules R230,
R232). -/
def accumulate (acc : Byte) (pairs : List (Byte × Byte)) : Byte :=
  pairs.foldl (fun acc p => acc ||| (p.1 ^^^ p.2)) acc

end Sys2Proof.Machine
end

