-- ==== Sys2Proof/Machine/Compare.lean ====
section
/-!
DEFINITION. The comparison unit's commands (45_compare_unit.md).
-/

namespace Sys2Proof.Machine

/-- The effect of CMP.BEGIN: the length check decides a mismatch at once (rule R231). -/
def beginCompare (c : CmpRegs) : CmpRegs :=
  if c.lenA ≠ c.lenB then
    { c with acc := 0, eq := false, remain := 0, cs := .done }
  else
    { c with acc := 0, eq := false, remain := c.lenA, cs := .active }

/-- CMP.BEGIN (rule R231). -/
def execCmpBegin (s : State) : Result :=
  runCommand .cmpBegin [badSequence (s.cmp.cs != .active)] (s.withCmp (beginCompare s.cmp)) s

/-- The byte pairs CMP.FEED N examines: (DATA[i], DATB[i]) for i in 0..N−1 (rule R232). -/
def feedPairs (n : Byte) (s : State) : List (Byte × Byte) :=
  (firstBytes n s.data).zip (firstBytes n s.datb)

/-- CMP.FEED N (rule R232): BAD_LEN for N > 64, then SEQUENCE, then BAD_LEN for N > CMP_REMAIN. -/
def execCmpFeed (n : Byte) (s : State) : Result :=
  runCommand (.cmpFeed n)
    [badCount n, badSequence (s.cmp.cs == .active), (.badLen, decide (s.cmp.remain.toNat < n.toNat))]
    (s.withCmp { s.cmp with
      acc := accumulate s.cmp.acc (feedPairs n s)
      remain := s.cmp.remain - n.setWidth 32 }) s

/-- The effect of CMP.END: the verdict if a comparison is active; in DONE nothing changes
(rule R233). -/
def endCompare (c : CmpRegs) : CmpRegs :=
  if c.cs = .active then { c with eq := c.acc == 0, acc := 0, cs := .done } else c

/-- CMP.END (rule R233). -/
def execCmpEnd (s : State) : Result :=
  runCommand .cmpEnd
    [badSequence (s.cmp.cs != .idle), (.cmpIncomplete, s.cmp.cs == .active && s.cmp.remain != 0)]
    (s.withCmp (endCompare s.cmp)) s

end Sys2Proof.Machine
end

