-- ==== Sys2Proof/Machine/Control.lean ====
section
/-!
DEFINITION. The control commands (46_control.md).
-/

namespace Sys2Proof.Machine

/-- NOP (rule R250): nothing, in every state. -/
def execNop (s : State) : Result := runCommand .nop [] s s

/-- SOFT_RESET (rule R251): the whole block to its reset state, also while ERR = 1. -/
def execSoftReset (s : State) : Result := .next (resetBlock s)

end Sys2Proof.Machine
end

