-- ==== Sys2Proof/Machine/Hmac.lean ====
section
/-!
DEFINITION. The HMAC sequencer's commands (42_hmac_engine.md section 2).
-/

namespace Sys2Proof.Machine

/-- HMAC.BEGIN ALG (rule R181): from a quiescent state, a new context; ALG is checked first. -/
def execHmacBegin (alg : Byte) (s : State) : Result :=
  runCommand (.hmacBegin alg)
    [(.unsupportedAlg, !legalAlg alg), badSequence s.hs.quiescent]
    (((s.withDout (Vector.replicate 32 0)).withMac
      ⟨Vector.replicate 64 0, 0, Vector.replicate 32 0⟩).withHs .hkey) s

/-- HMAC.KEY N (rule R183): key_byte(DATA[i]) for i in 0..N−1; HS may change part-way. -/
def execHmacKey (n : Byte) (s : State) : Result :=
  runCommand (.hmacKey n) [badCount n, badSequence s.hs.keying]
    (keyBytes (firstBytes n s.data) s) s

/-- The key normalized: from HKEYH the finalized key hash, from HKEY the key as it is held
(rule R184). -/
def normalizeKey (s : State) : State := if s.hs = .hkeyh then finishLongKey s else s

/-- The inner hash started and the inner pad absorbed (rule R184). -/
def startInner (s : State) : State :=
  (s.withDp (s.dp.coreInit.absorbAll (padKey ipad s.mac.key))).withHs .hmsg

/-- HMAC.KEYEND (rule R184): normalize the key, start the inner hash; KLEN unchanged. -/
def execHmacKeyend (s : State) : Result :=
  runCommand .hmacKeyend [badSequence s.hs.keying] (startInner (normalizeKey s)) s

/-- HMAC.MSG N (rule R185): absorb DATA[0..N−1] into the inner hash. -/
def execHmacMsg (n : Byte) (s : State) : Result :=
  runCommand (.hmacMsg n) [badCount n, badSequence (s.hs == .hmsg)]
    (s.withDp (s.dp.absorbAll (firstBytes n s.data))) s

/-- IDIG <- finalize(), the inner digest (rules R28, R186). -/
def finishInner (s : State) : State :=
  (s.withMac { s.mac with idig := s.dp.finalDigest }).withDp s.dp.finalized

/-- core_init, the outer pad and the inner digest absorbed (rule R186). -/
def absorbOuter (s : State) : State :=
  s.withDp ((s.dp.coreInit.absorbAll (padKey opad s.mac.key)).absorbAll s.mac.idig.toList)

/-- DOUT <- finalize(); KEY, KLEN and IDIG destroyed; HS <- HMAC_DONE (rule R186). -/
def publishMac (s : State) : State :=
  (((s.withDout s.dp.finalDigest).withDp s.dp.finalized).withMac
    ⟨Vector.replicate 64 0, 0, Vector.replicate 32 0⟩).withHs .hmacDone

/-- HMAC.FINAL (rule R186). -/
def execHmacFinal (s : State) : Result :=
  runCommand .hmacFinal [badSequence (s.hs == .hmsg)]
    (publishMac (absorbOuter (finishInner s))) s

end Sys2Proof.Machine
end

