-- ==== Sys2Proof/Machine/Sha.lean ====
section
/-!
DEFINITION. The direct SHA-256 commands (40_sha256_core.md section 5).
-/

namespace Sys2Proof.Machine

/-- SHA.INIT (rule R145): from a quiescent state, DOUT <- 0, core_init(), HS <- SHA. -/
def execShaInit (s : State) : Result :=
  runCommand .shaInit [badSequence s.hs.quiescent]
    (((s.withDout (Vector.replicate 32 0)).withDp s.dp.coreInit).withHs .sha) s

/-- SHA.UPDATE N (rule R146): absorb DATA[0..N−1]. -/
def execShaUpdate (n : Byte) (s : State) : Result :=
  runCommand (.shaUpdate n) [badCount n, badSequence (s.hs == .sha)]
    (s.withDp (s.dp.absorbAll (firstBytes n s.data))) s

/-- SHA.FINAL (rule R147): DOUT <- finalize(), HS <- SHA_DONE. -/
def execShaFinal (s : State) : Result :=
  runCommand .shaFinal [badSequence (s.hs == .sha)]
    (((s.withDout s.dp.finalDigest).withDp s.dp.finalized).withHs .shaDone) s

end Sys2Proof.Machine
end

