-- ==== Sys2Proof/Machine/Dispatch.lean ====
section
/-!
DEFINITION. Which meaning each command of the opcode map has (rule R94): one arm per constructor.
-/

namespace Sys2Proof.Machine

def exec (i : Instr) (s : State) : Host.Outcome State Fault Refusal :=
  match i with
  | .nop => Sys2Proof.Machine.execNop s
  | .shaInit => Sys2Proof.Machine.execShaInit s
  | .shaUpdate n => Sys2Proof.Machine.execShaUpdate n s
  | .shaFinal => Sys2Proof.Machine.execShaFinal s
  | .hmacBegin alg => Sys2Proof.Machine.execHmacBegin alg s
  | .hmacKey n => Sys2Proof.Machine.execHmacKey n s
  | .hmacKeyend => Sys2Proof.Machine.execHmacKeyend s
  | .hmacMsg n => Sys2Proof.Machine.execHmacMsg n s
  | .hmacFinal => Sys2Proof.Machine.execHmacFinal s
  | .cmpBegin => Sys2Proof.Machine.execCmpBegin s
  | .cmpFeed n => Sys2Proof.Machine.execCmpFeed n s
  | .cmpEnd => Sys2Proof.Machine.execCmpEnd s
  | .softReset => Sys2Proof.Machine.execSoftReset s

end Sys2Proof.Machine
end

