-- ==== Sys2Proof/Machine/Bus.lean ====
section
/-!
DEFINITION. The bus side of the block: accepted accesses (rule R61), the register map (rule R63),
command dispatch (rule R96) and the service of one bus event (rules R62, R69, R266, R290).
-/

namespace Sys2Proof.Machine

/-! ## Offsets of the register map (rule R63) -/

def offId : Offset := 0x00
def offVersion : Offset := 0x04
def offStatus : Offset := 0x08
def offErrcode : Offset := 0x0C
def offErrcmd : Offset := 0x10
def offCmd : Offset := 0x14
def offLenA : Offset := 0x18
def offLenB : Offset := 0x1C
def offDout : Offset := 0x20
def offData : Offset := 0x40
def offDatb : Offset := 0x80
def offRemain : Offset := 0xC0

/-- Whether an offset lies in the bytes region of `len` bytes that starts at `start`. -/
def inRegion (start : Offset) (len : Nat) (off : Offset) : Bool :=
  decide (start.toNat ≤ off.toNat) && decide (off.toNat < start.toNat + len)

/-- "The block accepts exactly the accesses with size = 4 bytes and offset mod 4 = 0" (rule R61). -/
def accepted (off : Offset) (size : Nat) : Bool := size == 4 && off.toNat % 4 == 0

/-- RegRead: what a read of the register map returns (rules R63–R65); no state changes. -/
def regRead (off : Offset) (s : State) : Word :=
  if off = offId then idValue
  else if off = offVersion then versionValue
  else if off = offStatus then s.status
  else if off = offErrcode then s.errcodeWord
  else if off = offErrcmd then s.err.cmd
  else if off = offCmd then 0
  else if off = offLenA then s.cmp.lenA
  else if off = offLenB then s.cmp.lenB
  else if inRegion offDout 32 off then laneRead s.dout (off.toNat - offDout.toNat)
  else if inRegion offData 64 off then laneRead s.data (off.toNat - offData.toNat)
  else if inRegion offDatb 64 off then laneRead s.datb (off.toNat - offDatb.toNat)
  else if off = offRemain then s.cmp.remain
  else 0

/-- RegWrite for every offset but CMD (rule R63): DATA, DATB, CMP_LEN_A and CMP_LEN_B store, in every
state; all other writes are ignored. -/
def regWrite (off : Offset) (v : Word) (s : State) : State :=
  if off = offLenA then s.withCmp { s.cmp with lenA := v }
  else if off = offLenB then s.withCmp { s.cmp with lenB := v }
  else if inRegion offData 64 off then s.withData (laneWrite s.data (off.toNat - offData.toNat) v)
  else if inRegion offDatb 64 off then s.withDatb (laneWrite s.datb (off.toNat - offDatb.toNat) v)
  else s

/-- A write of c to CMD (rule R96): while ERR = 1 only exactly 0x000000FF is served; a word of no row
raises ILLEGAL_CMD; else its command executes. -/
def serveCommand (c : Word) (s : State) : Result :=
  if s.err.locked then
    if c = 0x000000FF then exec .softReset s else .next s
  else
    match decode c with
    | .ok i => exec i s
    | .error _ => .next (raiseErr .illegalCmd c s)

/-- `BusRead(off, 4)` (rules R10, R62): a value, and no state change. -/
def busRead (off : Offset) (s : State) : Word := regRead off s

/-- `BusWrite(off, 4, v)` (rules R10, R62). -/
def busWrite (off : Offset) (v : Word) (s : State) : Result :=
  if off = offCmd then serveCommand v s else .next (regWrite off v s)

/-- The block's answer to an access, put at the end of the responses. -/
def respond (r : Response) (s : State) : State := s.withResponses (s.responses ++ [r])

/-- A result with the block's answer put at the end of the responses of its next state. -/
def answer (r : Response) : Result → Result
  | .next s => .next (respond r s)
  | .fault f => .fault f
  | .refused q => .refused q

/-- The service of one bus event, whole before the next (rule R69): an accepted access has its
effect; any other gets a bus error response, changes nothing, and a read returns 0 (rules R61,
R266); a hardware reset sets every state element (rule R290). -/
def serve (e : BusEvent) (s : State) : Result :=
  match e with
  | .read off size =>
      if accepted off size then .next (respond (.readData (busRead off s)) s)
      else .next (respond (.readError 0) s)
  | .write off size v =>
      if accepted off size then answer .written (busWrite off v s)
      else .next (respond .writeError s)
  | .hardReset => .next (resetBlock s)

/-- Serve the next event at the port, in the order the bus delivers them (rule R72); with none
pending the block waits (rules R36, R291). -/
def serveNext (s : State) : Result :=
  match s.port with
  | [] => .next s
  | e :: rest => serve e (s.withPort rest)

end Sys2Proof.Machine
end

