-- ==== Sys2Proof/Machine/Step.lean ====
section
/-!
DEFINITION. One step of the machine: the next bus event is served (rules R36, R69, R72).
-/

namespace Sys2Proof.Machine

/-- One step: the block has no program counter (rule R36); it serves the next bus event. -/
def step (s : State) : Host.Outcome State Fault Refusal := serveNext s

/-- `s` with the host's next access a write of the table-numbered word to CMD, so that the next step
runs that command: this machine's form of placing an instruction where it is fetched. -/
def State.withFetchWord (s : State) (nbits w : Nat) : State :=
  s.withPort (.write offCmd 4 (tableWord nbits w) :: s.port)

end Sys2Proof.Machine
end

