-- ==== Sys2Proof/Config.lean ====
section
/-!
DEFINITION. What an implementation or the platform fixes: the OPEN parameters of rule R7.
They are opaque: no rule depends on them and no proof can see a value.
-/

namespace Sys2Proof.Config

/-- Which 256-byte page of the host's bus the platform gives the window: `BASE` is 256-byte aligned
(rule R60, OPEN parameter `BASE`). -/
opaque basePage : Nat

/-- `BASE`, the window's base address on the host bus (rules R7, R60). -/
def base : Nat := 256 * basePage

/-- The host bus address of a window offset (rule R60). -/
def hostAddress (off : Offset) : Nat := base + off.toNat

/-- The window offset a host bus address selects, if it selects the block at all: the offsets are
decoded directly, with no translation (rules R60, R71). -/
def windowOffset (addr : Nat) : Option Offset :=
  if base ≤ addr ∧ addr < base + 256 then some (BitVec.ofNat 8 (addr - base)) else none

/-- `T_COMPRESS`, cycles per compression (rules R7, R296): an OPEN parameter no rule depends on. -/
opaque tCompress : Nat

/-- `T_CMD`, fixed cycles per command (rules R7, R296): an OPEN parameter no rule depends on. -/
opaque tCmd : Nat

/-- What the platform chooses about the reset input (rules R7, R290). -/
structure ResetSignalling where
  activeHigh : Bool
  synchronous : Bool
  minimumDuration : Nat
deriving DecidableEq, Repr, Inhabited

/-- `RESET_SIGNALLING` (rules R7, R290): an OPEN parameter no rule depends on; the model has one
atomic reset event. -/
opaque resetSignalling : ResetSignalling

end Sys2Proof.Config
end

