-- ==== Sys2Proof/Machine/Boundary.lean ====
section
/-!
DEFINITION. The host's use of the block: the pseudo-instructions (rule R100) and the host procedures
of 44_cookie_signer_host.md. "Nothing in this file is part of the block": every procedure acts on the
block only by the bus primitives BusRead and BusWrite of rule R10.
-/

namespace Sys2Proof.Machine.Boundary

/-! ## Bus accesses and pseudo-instructions (rules R10, R100) -/

/-- The state after `WR off, v`. -/
def write (off : Offset) (v : Word) (s : State) : State :=
  match busWrite off v s with
  | .next t => t
  | .fault _ => s
  | .refused _ => s

/-- A list of writes, in order. -/
def writes (ws : List (Offset × Word)) (s : State) : State :=
  ws.foldl (fun s w => write w.1 w.2 s) s

/-- A command mnemonic standing alone: `WR 0x014, <its encoding>`. -/
def command (i : Instr) (s : State) : State := write offCmd (encode i) s

/-- `w_k = b[4k] | b[4k+1]<<8 | b[4k+2]<<16 | b[4k+3]<<24`, "a byte past n is 0x00". -/
def packWord (bytes : List Byte) (k : Nat) : Word :=
  (bytes.getD (4 * k) 0).setWidth 32
    ||| ((bytes.getD (4 * k + 1) 0).setWidth 32 <<< 8)
    ||| ((bytes.getD (4 * k + 2) 0).setWidth 32 <<< 16)
    ||| ((bytes.getD (4 * k + 3) 0).setWidth 32 <<< 24)

/-- The writes that put bytes in the window at `start`, for k = 0 .. ceil(n/4)−1. -/
def putWrites (start : Offset) (bytes : List Byte) : List (Offset × Word) :=
  (List.range ((bytes.length + 3) / 4)).map fun k =>
    (start + BitVec.ofNat 8 (4 * k), packWord bytes k)

/-- `PUT.DATA bytes`. -/
def putData (bytes : List Byte) (s : State) : State := writes (putWrites offData bytes) s

/-- `PUT.DATB bytes`. -/
def putDatb (bytes : List Byte) (s : State) : State := writes (putWrites offDatb bytes) s

/-- `SETLEN a, b`: the two registers hold 32 bits each (rule R31). -/
def setLen (a b : Word) (s : State) : State := writes [(offLenA, a), (offLenB, b)] s

/-- The bytes a little-endian store of a word puts in memory (rule R65). -/
def storeBytes (v : Word) : List Byte :=
  [v.extractLsb' 0 8, v.extractLsb' 8 8, v.extractLsb' 16 8, v.extractLsb' 24 8]

/-- `GET.DOUT`: eight reads in increasing offset, as 32 bytes in offset order. -/
def getDout (s : State) : List Byte :=
  (List.range 8).flatMap fun k => storeBytes (busRead (offDout + BitVec.ofNat 8 (4 * k)) s)

/-- STATUS.ERR (rule R37). -/
def errorBit (s : State) : Bool := (busRead offStatus s).getLsbD 0

/-- STATUS.EQ (rule R37). -/
def verdictBit (s : State) : Bool := (busRead offStatus s).getLsbD 6

/-- STATUS.CS (rule R37). -/
def csField (s : State) : BitVec 2 := (busRead offStatus s).extractLsb' 4 2

/-! ## Delivering bytes in pieces (rules R211–R213) -/

/-- The first pieces of a byte sequence, 64 bytes each, and shorter where the bytes end. -/
def piecesFrom : Nat → List Byte → List (List Byte)
  | 0, _ => []
  | k + 1, bytes => bytes.take 64 :: piecesFrom k (bytes.drop 64)

/-- The consecutive pieces of at most 64 bytes of a byte sequence. DESIGN CHOICE (log entry 21): HASH and
HMAC "may split pieces at any boundary" (rules R211, R212), and the model cuts pieces of exactly 64
bytes, the last one shorter; for CT_EQUAL rule R213 itself cuts them so. -/
def pieces (bytes : List Byte) : List (List Byte) := piecesFrom ((bytes.length + 63) / 64) bytes

/-- `PUT.DATA p ; <command> len(p)`. -/
def sendPiece (cmd : Byte → Instr) (p : List Byte) (s : State) : State :=
  command (cmd (BitVec.ofNat 8 p.length)) (putData p s)

/-- A byte sequence in pieces through a data command. -/
def send (cmd : Byte → Instr) (bytes : List Byte) (s : State) : State :=
  (pieces bytes).foldl (fun s p => sendPiece cmd p s) s

/-! ## Failures of a host procedure (rule R220) -/

/-- What ends a host procedure without its value (rule R220). -/
inductive Failure where
  /-- The configuration error: the block reports UNSUPPORTED_ALG. It propagates to the caller. -/
  | unsupportedAlgorithm
  /-- Any other block error: an internal failure. -/
  | internal
deriving DecidableEq, Repr

/-- The failure that STATUS and ERRCODE report after a command, if any: ERR = 1 is an internal failure
unless ERRCODE is UNSUPPORTED_ALG (rule R220). -/
def failureOf (s : State) : Option Failure :=
  if errorBit s then
    if busRead offErrcode s = 0x00000003 then some .unsupportedAlgorithm else some .internal
  else none

/-- The result of a host procedure on the block: the block's state after it, and its value or its
failure (rule R220). -/
abbrev Outcome (α : Type) := State × Except Failure α

/-- `check`, and what follows it when it finds no error (rules R211, R220). After an internal failure
the host issues SOFT_RESET "before its next use of the block": here at once (log entry 12, the model's
choice). The configuration error propagates, and the block stays locked (log entry 20). -/
def check {α : Type} (s : State) (onward : State → Outcome α) : Outcome α :=
  match failureOf s with
  | none => onward s
  | some .unsupportedAlgorithm => (s, .error .unsupportedAlgorithm)
  | some .internal => (command .softReset s, .error .internal)

/-- A host procedure that goes on with the value of another; a failure ends both. -/
def continueWith {α β : Type} (o : Outcome α) (onward : State → α → Outcome β) : Outcome β :=
  match o with
  | (t, .ok a) => onward t a
  | (t, .error f) => (t, .error f)

/-- An internal failure "caught at the boundary" and "converted into the safe fallback"; the
configuration error propagates (rule R220). -/
def caught {α : Type} (fallback : α) (o : Outcome α) : Outcome α :=
  match o with
  | (t, .ok a) => (t, .ok a)
  | (t, .error .internal) => (t, .ok fallback)
  | (t, .error .unsupportedAlgorithm) => (t, .error .unsupportedAlgorithm)

/-! ## HASH, HMAC, CT_EQUAL (rules R211–R213) -/

/-- Host procedure `HASH(m)` (rule R211). -/
def hash (m : List Byte) (s : State) : Outcome (List Byte) :=
  check (command .shaFinal (send .shaUpdate m (command .shaInit s))) fun t => (t, .ok (getDout t))

/-- The commands of `HMAC(key, chunks)` after the context is created (rule R212). -/
def hmacBody (key : List Byte) (chunks : List (List Byte)) (s : State) : State :=
  command .hmacFinal
    (chunks.foldl (fun s c => send .hmacMsg c s) (command .hmacKeyend (send .hmacKey key s)))

/-- The context created with an algorithm, and used (rule R212): `create(alg, key).update(c1)..`. "an
ALG ≠ 0x01 is the configuration error", found by the check right after HMAC.BEGIN. -/
def hmacWith (alg : Byte) (key : List Byte) (chunks : List (List Byte)) (s : State) :
    Outcome (List Byte) :=
  check (command (.hmacBegin alg) s) fun b =>
    check (hmacBody key chunks b) fun t => (t, .ok (getDout t))

/-- Host procedure `HMAC(key, chunks)`, with the algorithm sha256 (rule R212). -/
def hmac (key : List Byte) (chunks : List (List Byte)) (s : State) : Outcome (List Byte) :=
  hmacWith 0x01 key chunks s

/-- `PUT.DATA a' ; PUT.DATB b' ; CMP.FEED n`. -/
def feedPiece (p : List Byte × List Byte) (s : State) : State :=
  command (.cmpFeed (BitVec.ofNat 8 p.1.length)) (putDatb p.2 (putData p.1 s))

/-- One comparison on the unit: the body of `CT_EQUAL(a, b)`, for strings whose lengths the unit's
registers hold (rule R213). -/
def compareOnce (a b : List Byte) (s : State) : Outcome Bool :=
  check (command .cmpBegin (setLen (BitVec.ofNat 32 a.length) (BitVec.ofNat 32 b.length) s)) fun t =>
    if csField t = 2 then (t, .ok (verdictBit t))
    else
      check (command .cmpEnd (((pieces a).zip (pieces b)).foldl (fun s p => feedPiece p s) t)) fun u =>
        (u, .ok (verdictBit u))

/-- The longest string one comparison takes: 2^32 − 1 bytes (rule R7, D17). -/
def maxCompared : Nat := 4294967295

/-- Part k of a byte string cut into parts that one comparison takes; empty past the string's end. -/
def part (k : Nat) (x : List Byte) : List Byte := (x.drop (k * maxCompared)).take maxCompared

/-- Parts k, k−1, .., 0 of two strings, one comparison each, up to the first that finds them unequal.
The last parts come first, so that a difference of the lengths is found by the first CMP.BEGIN ("length
check first", rule R222). -/
def compareParts (a b : List Byte) : Nat → State → Outcome Bool
  | 0, s => compareOnce (part 0 a) (part 0 b) s
  | k + 1, s =>
      continueWith (compareOnce (part (k + 1) a) (part (k + 1) b) s) fun t equal =>
        if equal then compareParts a b k t else (t, .ok false)

/-- Host procedure `CT_EQUAL(a, b)` (rule R213): one comparison for strings of fewer than 2^32 bytes.
DESIGN CHOICE (log entry 19): longer strings "cannot be compared in one comparison" (D17), and the host
compares them in several; so the verdict is equality for every input, as rule R221 items 2 and 4 say. -/
def ctEqual (a b : List Byte) (s : State) : Outcome Bool :=
  compareParts a b ((max a.length b.length - 1) / maxCompared) s

/-! ## Text: UTF-8 and the digest encodings (rules R210, R214–R216) -/

/-- The UTF-8 bytes of one character (rule R210). -/
def utf8Char (c : Char) : List Byte :=
  let n := c.toNat
  if n < 0x80 then [BitVec.ofNat 8 n]
  else if n < 0x800 then [BitVec.ofNat 8 (0xC0 + n / 64), BitVec.ofNat 8 (0x80 + n % 64)]
  else if n < 0x10000 then
    [BitVec.ofNat 8 (0xE0 + n / 4096), BitVec.ofNat 8 (0x80 + n / 64 % 64),
     BitVec.ofNat 8 (0x80 + n % 64)]
  else
    [BitVec.ofNat 8 (0xF0 + n / 262144), BitVec.ofNat 8 (0x80 + n / 4096 % 64),
     BitVec.ofNat 8 (0x80 + n / 64 % 64), BitVec.ofNat 8 (0x80 + n % 64)]

/-- The UTF-8 bytes of a text (rule R210). -/
def utf8 (text : List Char) : List Byte := text.flatMap utf8Char

/-- A character of "0123456789abcdef" (rule R214). -/
def hexDigit (n : Nat) : Char := if n < 10 then Char.ofNat (48 + n) else Char.ofNat (87 + n)

/-- **hex**: lowercase hex pairs, high nibble first (rule R214). -/
def hex (d : List Byte) : List Char :=
  d.flatMap fun b => [hexDigit (b.toNat / 16), hexDigit (b.toNat % 16)]

/-- The base64 alphabet: A–Z, a–z, 0–9, '+', '/' (rule R215). -/
def base64Digit (n : Nat) : Char :=
  if n < 26 then Char.ofNat (65 + n)
  else if n < 52 then Char.ofNat (71 + n)
  else if n < 62 then Char.ofNat (n - 4)
  else if n = 62 then '+'
  else '/'

/-- **base64**: groups of three bytes, big-endian, six bits a character, '=' filling the last group
(rule R215). -/
def base64 : List Byte → List Char
  | a :: b :: c :: rest =>
      base64Digit (a.toNat / 4)
        :: base64Digit (a.toNat % 4 * 16 + b.toNat / 16)
        :: base64Digit (b.toNat % 16 * 4 + c.toNat / 64)
        :: base64Digit (c.toNat % 64)
        :: base64 rest
  | [a, b] =>
      [base64Digit (a.toNat / 4), base64Digit (a.toNat % 4 * 16 + b.toNat / 16),
       base64Digit (b.toNat % 16 * 4), '=']
  | [a] => [base64Digit (a.toNat / 4), base64Digit (a.toNat % 4 * 16), '=', '=']
  | [] => []

/-- **binary**: the raw 32 bytes in order (rule R216). -/
def binary (d : List Byte) : List Byte := d

/-! ## Signing and verification (rules R217, R218, R220) -/

/-- A signature text with every trailing '=' stripped (rule R217). -/
def stripPadding (text : List Char) : List Char := (text.reverse.dropWhile (· == '=')).reverse

/-- `message ++ "." ++ sig` with the signature of a MAC (rules R217, R219). -/
def signedValue (message : List Char) (mac : List Byte) : List Char :=
  message ++ '.' :: stripPadding (base64 mac)

/-- Host procedure `sign(message, secret)` (rule R217). An internal failure gives the message
(rule R220). -/
def sign (message secret : List Char) (s : State) : Outcome (List Char) :=
  if secret = [] then (s, .ok message)
  else caught message
    (continueWith (hmac (utf8 secret) [utf8 message] s) fun t mac =>
      (t, .ok (signedValue message mac)))

/-- The part of a text before its LAST '.', if it has one (rule R218). -/
def beforeLastDot (text : List Char) : Option (List Char) :=
  if '.' ∈ text then some ((text.reverse.dropWhile (· != '.')).drop 1).reverse else none

/-- Host procedure `unsign(signedValue, secret)` (rules R218, R222): `none` is the document's null. An
internal failure gives null (rule R220). -/
def unsign (sv secret : List Char) (s : State) : Outcome (Option (List Char)) :=
  match beforeLastDot sv with
  | none => (s, .ok none)
  | some message => caught none
      (continueWith (sign message secret s) fun t expected =>
        continueWith (ctEqual (utf8 expected) (utf8 sv) t) fun u equal =>
          (u, .ok (if equal then some message else none)))

end Sys2Proof.Machine.Boundary
end

