-- ==== Sys2Proof/Machine/Reference.lean ====
section
/-!
DEFINITION. What the statements compare the machine with; nothing of the machine uses this file. The
document's algorithms on whole byte sequences: SHA-256 with whole-buffer padding (rules R143,
R131–R136) and HMAC-SHA256 (rule R180); and three tables of the spec written once over all commands:
the check order (rule R262), the HS transitions (rule R188), the compression counts (rule R296).
-/

namespace Sys2Proof.Machine.Reference

/-- The number of zero bytes of the padding: `z = (55 − L) mod 64` (rule R143). -/
def zeroCount (len : Nat) : Nat := (55 + 64 - len % 64) % 64

/-- The padded message: `m ++ [0x80] ++ 0^z ++ BE64((8·L) mod 2^64)` (rule R143). -/
def padded (m : List Byte) : List Byte :=
  m ++ [0x80] ++ List.replicate (zeroCount m.length) 0x00 ++ be64 (BitVec.ofNat 64 (8 * m.length))

/-- The first `k` consecutive 64-byte blocks of a byte sequence. -/
def blocksOf : Nat → List Byte → List (List Byte)
  | 0, _ => []
  | k + 1, bytes => bytes.take 64 :: blocksOf k (bytes.drop 64)

/-- The big-endian words of a byte sequence, four bytes each (rule R131). -/
def wordsOf : List Byte → List Word
  | b0 :: b1 :: b2 :: b3 :: rest => wordOfBytes b0 b1 b2 b3 :: wordsOf rest
  | _ => []

/-- The next word of a schedule held newest first: the words t-2, t-7, t-15 and t-16 stand at
indexes 1, 6, 14 and 15 (rule R132). -/
def nextWord (newestFirst : List Word) : Word :=
  newestFirst.getD 15 0 + smallSigma0 (newestFirst.getD 14 0) + newestFirst.getD 6 0
    + smallSigma1 (newestFirst.getD 1 0)

/-- `k` more words of a schedule held newest first. -/
def extendSchedule : Nat → List Word → List Word
  | 0, ws => ws
  | k + 1, ws => extendSchedule k (nextWord ws :: ws)

/-- The 64-word message schedule of a block, oldest first (rules R131, R132). -/
def schedule (block : List Byte) : List Word := (extendSchedule 48 (wordsOf block).reverse).reverse

/-- One compression of a block into the hash words (rules R133–R136): the 64 rounds take the
constants and the schedule words in step. -/
def compressBlock (h : Vector Word 8) (block : List Byte) : Vector Word 8 :=
  feedForward h
    ((kRom.toList.zip (schedule block)).foldl (fun v kw => roundWith kw.1 kw.2 v) (loadWorking h))

/-- The hash words after a run of whole blocks, from H0 (rules R138, R143). -/
def hashBlocks (blocks : List (List Byte)) : Vector Word 8 := blocks.foldl compressBlock h0Rom

/-- SHA-256 of a byte sequence, as §4.2 defines it (rule R143). -/
def sha256 (m : List Byte) : List Byte :=
  (hashBlocks (blocksOf ((padded m).length / 64) (padded m))).toList.flatMap be32

/-- The normalized key K0 of 64 bytes (rule R180). -/
def normalizedKey (key : List Byte) : List Byte :=
  let k := if 64 < key.length then sha256 key else key
  k ++ List.replicate (64 - k.length) 0x00

/-- A byte sequence with every byte xored with `x` (rule R180). -/
def xorAll (x : Byte) (bytes : List Byte) : List Byte := bytes.map (· ^^^ x)

/-- `HMAC(key, m) = SHA256((K0 ⊕ 0x5c^64) ++ SHA256((K0 ⊕ 0x36^64) ++ m))` (rule R180). -/
def hmac (key m : List Byte) : List Byte :=
  sha256 (xorAll 0x5c (normalizedKey key) ++ sha256 (xorAll 0x36 (normalizedKey key) ++ m))

/-! ## Tables over all commands -/

/-- The byte count N of a row that uses it (rules R91, R94). -/
def countOf : Instr → Option Byte
  | .nop => none
  | .shaInit => none
  | .shaUpdate n => some n
  | .shaFinal => none
  | .hmacBegin _ => none
  | .hmacKey n => some n
  | .hmacKeyend => none
  | .hmacMsg n => some n
  | .hmacFinal => none
  | .cmpBegin => none
  | .cmpFeed n => some n
  | .cmpEnd => none
  | .softReset => none

/-- Whether a command's state, HS or CS, is legal: the cells of rule R188 that are not SEQ, and the
"Legal in" lines of rules R231–R233. -/
def legalIn : Instr → HS → CS → Bool
  | .nop, _, _ => true
  | .shaInit, h, _ => [HS.idle, .shaDone, .hmacDone].contains h
  | .shaUpdate _, h, _ => [HS.sha].contains h
  | .shaFinal, h, _ => [HS.sha].contains h
  | .hmacBegin _, h, _ => [HS.idle, .shaDone, .hmacDone].contains h
  | .hmacKey _, h, _ => [HS.hkey, .hkeyh].contains h
  | .hmacKeyend, h, _ => [HS.hkey, .hkeyh].contains h
  | .hmacMsg _, h, _ => [HS.hmsg].contains h
  | .hmacFinal, h, _ => [HS.hmsg].contains h
  | .cmpBegin, _, c => [CS.idle, .done].contains c
  | .cmpFeed _, _, c => [CS.active].contains c
  | .cmpEnd, _, c => [CS.active, .done].contains c
  | .softReset, _, _ => true

/-- Check 3: the row is HMAC.BEGIN and ALG ≠ 0x01 (rule R262). -/
def wrongAlg : Instr → Bool
  | .hmacBegin alg => decide (alg ≠ 0x01)
  | _ => false

/-- Check 5: the row is CMP.FEED and N > CMP_REMAIN (rule R262). -/
def feedsTooMany : Instr → State → Bool
  | .cmpFeed n, s => decide (s.cmp.remain.toNat < n.toNat)
  | _, _ => false

/-- Check 6: the row is CMP.END and CS = ACTIVE and CMP_REMAIN ≠ 0 (rule R262). -/
def endsEarly (i : Instr) (s : State) : Bool :=
  decide (i = .cmpEnd ∧ s.cmp.cs = .active ∧ s.cmp.remain ≠ 0)

/-- Checks 2 to 6 of rule R262, in their order, for a decoded command at an unlocked block: the error
of the first check that fails. -/
def firstError (i : Instr) (s : State) : Option ErrCode :=
  if (countOf i).any (fun n => decide (64 < n.toNat)) then some .badLen
  else if wrongAlg i then some .unsupportedAlg
  else if !legalIn i s.hs s.cmp.cs then some .sequence
  else if feedsTooMany i s then some .badLen
  else if endsEarly i s then some .cmpIncomplete
  else none

/-- HS after a command that makes no error: the cells of rule R188. HMAC.KEY leaves HKEY exactly when
the key passes 64 bytes. -/
def nextHs (i : Instr) (s : State) : HS :=
  match i with
  | .nop => s.hs
  | .shaInit => .sha
  | .shaUpdate _ => s.hs
  | .shaFinal => .shaDone
  | .hmacBegin _ => .hkey
  | .hmacKey n => if s.hs = .hkey ∧ 64 < s.mac.klen.toNat + n.toNat then .hkeyh else s.hs
  | .hmacKeyend => .hmsg
  | .hmacMsg _ => s.hs
  | .hmacFinal => .hmacDone
  | .cmpBegin => s.hs
  | .cmpFeed _ => s.hs
  | .cmpEnd => s.hs
  | .softReset => .idle

/-- Compressions of a finalize: 1 if BLEN ≤ 55 on entry, else 2 (rule R141). -/
def finalizeCount (s : State) : Nat := if s.dp.blen.toNat ≤ 55 then 1 else 2

/-- Compressions a command that makes no error performs (rules R183, R296). -/
def compressionCount (i : Instr) (s : State) : Nat :=
  match i with
  | .nop => 0
  | .shaInit => 0
  | .shaUpdate n => (s.dp.blen.toNat + n.toNat) / 64
  | .shaFinal => finalizeCount s
  | .hmacBegin _ => 0
  | .hmacKey n =>
      if s.hs = .hkeyh then (s.dp.blen.toNat + n.toNat) / 64
      else if s.mac.klen.toNat + n.toNat ≤ 64 then 0
      else 1 + (s.mac.klen.toNat + n.toNat - 64) / 64
  | .hmacKeyend => if s.hs = .hkeyh then finalizeCount s + 1 else 1
  | .hmacMsg n => (s.dp.blen.toNat + n.toNat) / 64
  | .hmacFinal => finalizeCount s + 2
  | .cmpBegin => 0
  | .cmpFeed _ => 0
  | .cmpEnd => 0
  | .softReset => 0

end Sys2Proof.Machine.Reference
end

