-- ==== Sys2Proof/Safety.lean ====
section
/-!
DEFINITION. What counts as a safe state and a safe run: the invariants of rule R41, the always-zero
hidden state of rules R24 and R28, and the relations the statements are made in: what a datapath, a key
and a comparison hold after given bytes, and when two states cannot be told apart.
-/

namespace Sys2Proof.Machine

/-- Every hash word is zero, nothing is buffered and no bits are counted (rule R41 item 2). -/
abbrev Datapath.cleared (d : Datapath) : Prop :=
  d.h = Vector.replicate 8 0 ∧ d.blen = 0 ∧ d.len = 0

/-- KEY is all zero and KLEN is 0 (rule R41 item 5). -/
abbrev MacRegs.keyErased (m : MacRegs) : Prop := m.key = Vector.replicate 64 0 ∧ m.klen = 0

/-- The invariants that hold between bus accesses (rule R41), with rules R24, R27 and R28. Item 4 is
stated in every HS but HMSG, where rule R184 leaves KLEN at 65 after a long key (log entry 4). -/
structure State.Inv (s : State) : Prop where
  /-- Item 1: BLEN ≤ 63. -/
  blen_le : s.dp.blen.toNat ≤ 63
  /-- Item 2: with no digest computation in progress the datapath is cleared. -/
  datapath_cleared : s.hs = .idle ∨ s.hs = .shaDone ∨ s.hs = .hkey ∨ s.hs = .hmacDone → s.dp.cleared
  /-- Item 3: while the key is held, at most 64 bytes, and zero past them. -/
  key_held : s.hs = .hkey →
    s.mac.klen.toNat ≤ 64 ∧ ∀ j, s.mac.klen.toNat ≤ j → j < 64 → s.mac.key.getD j 0 = 0
  /-- Item 4, in every HS but HMSG: HS = HKEYH ⇔ KLEN = 65. -/
  long_key : s.hs ≠ .hmsg → (s.hs = .hkeyh ↔ s.mac.klen = 65)
  /-- KLEN counts key bytes "saturating at 65" (rule R27). -/
  klen_le : s.mac.klen.toNat ≤ 65
  /-- Item 5: outside an HMAC context the key is erased. -/
  key_erased : s.hs = .idle ∨ s.hs = .sha ∨ s.hs = .shaDone ∨ s.hs = .hmacDone → s.mac.keyErased
  /-- Item 6: DOUT is zero unless it holds a finished result. -/
  dout_zero : s.hs ≠ .shaDone → s.hs ≠ .hmacDone → s.dout = Vector.replicate 32 0
  /-- Item 7: CMP_REMAIN and ACC are zero unless a comparison is active. -/
  compare_idle : s.cmp.cs ≠ .active → s.cmp.remain = 0 ∧ s.cmp.acc = 0
  /-- Item 8: EQ is 0 unless a verdict stands. -/
  verdict_only_done : s.cmp.cs ≠ .done → s.cmp.eq = false
  /-- Item 9, for ERRCODE. -/
  code_iff : s.err.locked = false ↔ s.err.code = .none
  /-- Item 9, for ERRCMD. -/
  cmd_iff : s.err.locked = false ↔ s.err.cmd = 0
  /-- RC is 0 whenever the host can observe the block (rule R24). -/
  rc_zero : s.dp.rc = 0
  /-- IDIG is 0 whenever the host can observe the block (rule R28). -/
  idig_zero : s.mac.idig = Vector.replicate 32 0

/-- LEN and BLEN agree: LEN counts 8 bits for each byte, and BLEN is the byte count modulo 64
(rules R26, R139, R140; 0 and 0 where nothing is absorbed). -/
def State.lengthsAgree (s : State) : Prop := s.dp.len.toNat % 512 = 8 * s.dp.blen.toNat

/-- A safe step: it answers a next state, and a state that keeps the invariants. -/
def State.safeStep (s : State) : Prop := ∃ t, step s = .next t ∧ t.Inv

/-! ## What the units hold after given bytes -/

/-- The datapath has absorbed exactly the bytes `m` since core_init (rules R137–R140): H is the hash
of the whole blocks of `m`, BUF holds the bytes past them, BLEN counts those, LEN counts all bits. -/
structure Datapath.Absorbed (m : List Byte) (d : Datapath) : Prop where
  h : d.h = Reference.hashBlocks (Reference.blocksOf (m.length / 64) m)
  blen : d.blen.toNat = m.length % 64
  buf : ∀ j, j < m.length % 64 → d.buf.getD j 0 = m.getD (64 * (m.length / 64) + j) 0
  len : d.len.toNat = 8 * m.length % 2 ^ 64

/-- The HMAC context has received exactly the key bytes `k` (rules R27, R182): held in KEY up to 64,
absorbed into the key hash past them. -/
def State.KeyReceived (k : List Byte) (s : State) : Prop :=
  (s.hs = .hkey ∧ k.length ≤ 64 ∧ s.mac.klen.toNat = k.length ∧
      s.mac.key.toList = k ++ List.replicate (64 - k.length) 0) ∨
    (s.hs = .hkeyh ∧ 64 < k.length ∧ s.mac.klen = 65 ∧ s.dp.Absorbed k)

/-- The HMAC context with key `k` has absorbed exactly the message bytes `m` (rules R184, R187): KEY
is K0, and the inner hash has absorbed the inner pad and `m`. -/
def State.MessageAbsorbed (k m : List Byte) (s : State) : Prop :=
  s.hs = .hmsg ∧ s.mac.key.toList = Reference.normalizedKey k ∧
    s.dp.Absorbed (Reference.xorAll 0x36 (Reference.normalizedKey k) ++ m)

/-- A comparison of strings of `total` bytes is active and has been fed exactly `a` and `b`
(rules R231, R232). -/
def State.Compared (total : Nat) (a b : List Byte) (s : State) : Prop :=
  s.cmp.cs = .active ∧ a.length = b.length ∧ s.cmp.remain.toNat + a.length = total ∧
    (s.cmp.acc = 0 ↔ a = b)

/-! ## States that cannot be told apart -/

/-- The block's registers are those of another state: all but the model's own port and responses. -/
def State.sameRegisters (s t : State) : Prop :=
  (s.withPort []).withResponses [] = (t.withPort []).withResponses []

/-- The scratch registers of the datapath: what "a model may hold any value" in between commands
(rules R22, R23, R24). -/
def Datapath.withScratch (d : Datapath) (w : Vector Word 64) (wv : Working) (rc : BitVec 7) :
    Datapath :=
  { d with w := w, wv := wv, rc := rc }

/-- Two states that differ at most in the scratch registers W, a..h and RC (rules R22–R24). -/
def State.sameButScratch (s t : State) : Prop :=
  t = s.withDp (s.dp.withScratch t.dp.w t.dp.wv t.dp.rc)

/-- Two states that agree on everything the bus can read (rules R20, R40): all but H, the working
variables, W, RC, BUF, LEN, KEY, IDIG and ACC. -/
structure State.sameVisible (s t : State) : Prop where
  locked : s.err.locked = t.err.locked
  code : s.err.code = t.err.code
  cmd : s.err.cmd = t.err.cmd
  hs : s.hs = t.hs
  cs : s.cmp.cs = t.cmp.cs
  eq : s.cmp.eq = t.cmp.eq
  blen : s.dp.blen = t.dp.blen
  klen : s.mac.klen = t.mac.klen
  lenA : s.cmp.lenA = t.cmp.lenA
  lenB : s.cmp.lenB = t.cmp.lenB
  remain : s.cmp.remain = t.cmp.remain
  dout : s.dout = t.dout
  data : s.data = t.data
  datb : s.datb = t.datb

end Sys2Proof.Machine
end

