-- ==== Sys2Proof/Certificates/Slice0/Obligations.lean ====
section
/-!
DEFINITION. The statements for the provers. Each docstring names the rule it formalises. A next state
is written out as an update of the state before, so that every field not named in it is unchanged:
that is the frame.
-/

open Sys2Proof Sys2Proof.Machine

/-! ## Encoding -/

/-- Rules R94, R96, R101: a word decodes to a command exactly when it is that command's encoding; so
decode of encode is the identity, with every operand at every value its field admits, and no two words
mean one command. -/
def Obligations.DecodesExactlyTheEncodedWord : Prop :=
  ∀ (c : Word) (i : Instr), decode c = .ok i ↔ encode i = c

/-- Rule R97: the illegal words are exactly the three kinds (an OP value not in the map; a listed OP
with RSV ≠ 0; a listed OP with a field the row does not use), and each raises ILLEGAL_CMD with no other
effect. -/
def Obligations.IllegalWordsAreTheThreeKinds : Prop :=
  let unlisted (c : Word) : Prop :=
    (0x04 ≤ (fieldOp c).toNat ∧ (fieldOp c).toNat ≤ 0x0F) ∨
      (0x15 ≤ (fieldOp c).toNat ∧ (fieldOp c).toNat ≤ 0x1F) ∨
      (0x23 ≤ (fieldOp c).toNat ∧ (fieldOp c).toNat ≤ 0xFE)
  (∀ c, decode c = .error .unknownOp ↔ unlisted c) ∧
  (∀ c, decode c = .error .reservedNonzero ↔ ¬ unlisted c ∧ fieldRsv c ≠ 0) ∧
  (∀ c, decode c = .error .unusedField ↔ ¬ unlisted c ∧ fieldRsv c = 0 ∧
    ((fieldN c ≠ 0 ∧ fieldOp c ≠ 0x02 ∧ fieldOp c ≠ 0x11 ∧ fieldOp c ≠ 0x13 ∧ fieldOp c ≠ 0x21) ∨
      (fieldAlg c ≠ 0 ∧ fieldOp c ≠ 0x10))) ∧
  (∀ c e (s : State), s.err.locked = false → decode c = .error e →
    serveCommand c s = .next { s with err := ⟨true, .illegalCmd, c⟩ })

/-- Rule R94: the match and mask of the thirteen rows, and "No two rows match the same word". -/
def Obligations.NoTwoRowsMatchTheSameWord : Prop :=
  opcodeMap.map (fun r => (r.matchBits, r.mask)) =
    [(0x00000000, 0xFFFFFFFF), (0x00000001, 0xFFFFFFFF), (0x00000002, 0xFFFF00FF),
     (0x00000003, 0xFFFFFFFF), (0x00000010, 0xFF00FFFF), (0x00000011, 0xFFFF00FF),
     (0x00000012, 0xFFFFFFFF), (0x00000013, 0xFFFF00FF), (0x00000014, 0xFFFFFFFF),
     (0x00000020, 0xFFFFFFFF), (0x00000021, 0xFFFF00FF), (0x00000022, 0xFFFFFFFF),
     (0x000000FF, 0xFFFFFFFF)] ∧
  ∀ c : Word, (opcodeMap.filter (·.accepts c)).length ≤ 1

/-- Rule R101: `enc(OP, N, ALG) = OP | (N << 8) | (ALG << 16)`, its examples, and the fields of rule
R90 read back. -/
def Obligations.CommandWordsAreAssembledFromFields : Prop :=
  (∀ op n alg : Byte, (enc op n alg).toNat = op.toNat + 2 ^ 8 * n.toNat + 2 ^ 16 * alg.toNat ∧
    fieldOp (enc op n alg) = op ∧ fieldN (enc op n alg) = n ∧ fieldAlg (enc op n alg) = alg ∧
    fieldRsv (enc op n alg) = 0) ∧
  encode (.shaUpdate 3) = 0x00000302 ∧ encode (.hmacKey 64) = 0x00004011 ∧
  encode (.hmacBegin 0x01) = 0x00010010 ∧ encode (.cmpFeed 56) = 0x00003821

/-- Words written out from the fields of rule R90 and the map of rule R94, one of every family, decode
to the command they stand for. -/
def Obligations.WordsOfEveryFamilyDecode : Prop :=
  decode 0x00000000 = .ok .nop ∧ decode 0x00000001 = .ok .shaInit ∧
  decode 0x00004002 = .ok (.shaUpdate 64) ∧ decode 0x00FF0010 = .ok (.hmacBegin 0xFF) ∧
  decode 0x00000111 = .ok (.hmacKey 1) ∧ decode 0x00000014 = .ok .hmacFinal ∧
  decode 0x0000FF21 = .ok (.cmpFeed 255) ∧ decode 0x00000022 = .ok .cmpEnd ∧
  decode 0x000000FF = .ok .softReset

/-! ## The control commands -/

/-- Rule R250: NOP is the word 0 and nothing else; it changes nothing in any state. -/
def Obligations.NopChangesNothing : Prop :=
  (∀ s : State, exec .nop s = .next s) ∧ (∀ c, decode c = .ok .nop ↔ c = 0x00000000)

/-- Rule R251: SOFT_RESET returns the whole block to its reset state from every state, the locked one
included, and cannot be told from a hardware reset; a word with OP = 0xFF and any other bit set is
ILLEGAL_CMD when ERR = 0 and is ignored when ERR = 1. That the port and the responses, the model's own,
outlive the reset is the choice of log entry 10; that the count of compressions starts again at 0 is
the choice of log entry 3. -/
def Obligations.SoftResetRestoresTheResetState : Prop :=
  (∀ s : State,
    exec .softReset s = .next { State.reset with port := s.port, responses := s.responses }) ∧
  (∀ s : State, s.err.locked = true → serveCommand 0x000000FF s =
    .next { State.reset with port := s.port, responses := s.responses }) ∧
  (∀ s : State, serve .hardReset s = exec .softReset s) ∧
  State.reset.status = 0x00000000 ∧
  (∀ (c : Word) (s : State), fieldOp c = 0xFF → c ≠ 0x000000FF →
    (s.err.locked = false →
      serveCommand c s = .next { s with err := ⟨true, .illegalCmd, c⟩ }) ∧
    (s.err.locked = true → serveCommand c s = .next s))

/-! ## The direct SHA-256 commands -/

/-- Rule R145: SHA.INIT clears DOUT, does core_init and enters SHA from a quiescent state; it raises
SEQUENCE in every other; the word must be 0x00000001 exactly. -/
def Obligations.ShaInitStartsADigest : Prop :=
  (∀ s : State, s.err.locked = true → exec .shaInit s = .next s) ∧
  (∀ s : State, s.err.locked = false → s.hs ≠ .idle → s.hs ≠ .shaDone → s.hs ≠ .hmacDone →
    exec .shaInit s = .next { s with err := ⟨true, .sequence, 0x00000001⟩ }) ∧
  (∀ s : State, s.err.locked = false → (s.hs = .idle ∨ s.hs = .shaDone ∨ s.hs = .hmacDone) →
    exec .shaInit s = .next { s with
      dout := Vector.replicate 32 0
      dp := { s.dp with h := h0Rom, buf := Vector.replicate 64 0, blen := 0, len := 0 }
      hs := .sha }) ∧
  (∀ (c : Word) (s : State), s.err.locked = false → fieldOp c = 0x01 → c ≠ 0x00000001 →
    serveCommand c s = .next { s with err := ⟨true, .illegalCmd, c⟩ })

/-- Rule R146: SHA.UPDATE N absorbs DATA[0..N−1] in SHA; BAD_LEN for N > 64 comes before SEQUENCE;
BLEN becomes (BLEN + N) mod 64, with ⌊(BLEN + N)/64⌋ compressions. -/
def Obligations.ShaUpdateAbsorbsNBytes : Prop :=
  (∀ (n : Byte) (s : State), s.err.locked = true → exec (.shaUpdate n) s = .next s) ∧
  (∀ (n : Byte) (s : State), s.err.locked = false → 64 < n.toNat →
    exec (.shaUpdate n) s = .next { s with err := ⟨true, .badLen, enc 0x02 n 0⟩ }) ∧
  (∀ (n : Byte) (s : State), s.err.locked = false → n.toNat ≤ 64 → s.hs ≠ .sha →
    exec (.shaUpdate n) s = .next { s with err := ⟨true, .sequence, enc 0x02 n 0⟩ }) ∧
  (∀ (n : Byte) (s : State), s.err.locked = false → n.toNat ≤ 64 → s.hs = .sha →
    ∃ d : Datapath, exec (.shaUpdate n) s = .next { s with dp := d } ∧
      d = s.dp.absorbAll ((List.range n.toNat).map fun i => s.data.getD i 0) ∧
      d.blen.toNat = (s.dp.blen.toNat + n.toNat) % 64 ∧
      d.compressions = s.dp.compressions + (s.dp.blen.toNat + n.toNat) / 64) ∧
  (∀ (c : Word) (s : State), s.err.locked = false → fieldOp c = 0x02 → c >>> 16 ≠ 0 →
    serveCommand c s = .next { s with err := ⟨true, .illegalCmd, c⟩ })

/-- Rule R147: SHA.FINAL publishes the finalized digest in DOUT and enters SHA_DONE; afterwards H, W
and LEN are zero; 1 compression if BLEN ≤ 55 on entry, else 2; with nothing absorbed it publishes
SHA-256 of the empty message. -/
def Obligations.ShaFinalPublishesTheDigest : Prop :=
  (∀ s : State, s.err.locked = true → exec .shaFinal s = .next s) ∧
  (∀ s : State, s.err.locked = false → s.hs ≠ .sha →
    exec .shaFinal s = .next { s with err := ⟨true, .sequence, 0x00000003⟩ }) ∧
  (∀ s : State, s.err.locked = false → s.hs = .sha →
    ∃ d : Datapath, exec .shaFinal s = .next { s with
        dout := s.dp.finalDigest, dp := d, hs := .shaDone } ∧
      d = s.dp.finalized ∧
      d.h = Vector.replicate 8 0 ∧ d.w = Vector.replicate 64 0 ∧ d.len = 0 ∧ d.blen = 0 ∧
      d.compressions = s.dp.compressions + (if s.dp.blen.toNat ≤ 55 then 1 else 2) ∧
      (s.dp.Absorbed [] → s.dp.finalDigest.toList =
        [0xe3, 0xb0, 0xc4, 0x42, 0x98, 0xfc, 0x1c, 0x14, 0x9a, 0xfb, 0xf4, 0xc8, 0x99, 0x6f, 0xb9,
         0x24, 0x27, 0xae, 0x41, 0xe4, 0x64, 0x9b, 0x93, 0x4c, 0xa4, 0x95, 0x99, 0x1b, 0x78, 0x52,
         0xb8, 0x55])) ∧
  (∀ (c : Word) (s : State), s.err.locked = false → fieldOp c = 0x03 → c ≠ 0x00000003 →
    serveCommand c s = .next { s with err := ⟨true, .illegalCmd, c⟩ })

/-! ## The HMAC sequencer's commands -/

/-- Rule R181: HMAC.BEGIN creates a context from a quiescent state; any ALG ≠ 0x01 raises
UNSUPPORTED_ALG whatever the state, before SEQUENCE. -/
def Obligations.HmacBeginCreatesAContext : Prop :=
  (∀ (alg : Byte) (s : State), s.err.locked = true → exec (.hmacBegin alg) s = .next s) ∧
  (∀ (alg : Byte) (s : State), s.err.locked = false → alg ≠ 0x01 →
    exec (.hmacBegin alg) s = .next { s with err := ⟨true, .unsupportedAlg, enc 0x10 0 alg⟩ }) ∧
  (∀ s : State, s.err.locked = false → s.hs ≠ .idle → s.hs ≠ .shaDone → s.hs ≠ .hmacDone →
    exec (.hmacBegin 0x01) s = .next { s with err := ⟨true, .sequence, 0x00010010⟩ }) ∧
  (∀ s : State, s.err.locked = false → (s.hs = .idle ∨ s.hs = .shaDone ∨ s.hs = .hmacDone) →
    exec (.hmacBegin 0x01) s = .next { s with
      dout := Vector.replicate 32 0
      mac := { key := Vector.replicate 64 0, klen := 0, idig := Vector.replicate 32 0 }
      hs := .hkey }) ∧
  (∀ (c : Word) (s : State), s.err.locked = false → fieldOp c = 0x10 →
    (fieldRsv c ≠ 0 ∨ fieldN c ≠ 0) →
    serveCommand c s = .next { s with err := ⟨true, .illegalCmd, c⟩ })

/-- Rule R183: HMAC.KEY N delivers DATA[0..N−1] to key_byte in HKEY or HKEYH; KLEN becomes
min(KLEN + N, 65), HS becomes HKEYH when the key passes 64 bytes, and BLEN then counts the key bytes in
the current block of the key hash. These last hold under the invariant of rule R41 (a held key has at
most 64 bytes). -/
def Obligations.HmacKeyDeliversNBytes : Prop :=
  (∀ (n : Byte) (s : State), s.err.locked = true → exec (.hmacKey n) s = .next s) ∧
  (∀ (n : Byte) (s : State), s.err.locked = false → 64 < n.toNat →
    exec (.hmacKey n) s = .next { s with err := ⟨true, .badLen, enc 0x11 n 0⟩ }) ∧
  (∀ (n : Byte) (s : State), s.err.locked = false → n.toNat ≤ 64 → s.hs ≠ .hkey → s.hs ≠ .hkeyh →
    exec (.hmacKey n) s = .next { s with err := ⟨true, .sequence, enc 0x11 n 0⟩ }) ∧
  (∀ (n : Byte) (s : State), s.err.locked = false → n.toNat ≤ 64 → (s.hs = .hkey ∨ s.hs = .hkeyh) →
    ∃ (d : Datapath) (m : MacRegs) (h : HS),
      exec (.hmacKey n) s = .next { s with dp := d, mac := m, hs := h } ∧
      { s with dp := d, mac := m, hs := h } =
        ((List.range n.toNat).map fun i => s.data.getD i 0).foldl (fun s b => keyByte b s) s ∧
      m.idig = s.mac.idig ∧
      (s.Inv → m.klen.toNat = min (s.mac.klen.toNat + n.toNat) 65 ∧
        h = (if s.hs = .hkeyh ∨ 64 < s.mac.klen.toNat + n.toNat then HS.hkeyh else HS.hkey) ∧
        (h = .hkeyh → d.blen.toNat = if s.hs = .hkeyh then (s.dp.blen.toNat + n.toNat) % 64
          else (s.mac.klen.toNat + n.toNat) % 64) ∧
        d.compressions = s.dp.compressions + Reference.compressionCount (.hmacKey n) s)) ∧
  (∀ (c : Word) (s : State), s.err.locked = false → fieldOp c = 0x11 → c >>> 16 ≠ 0 →
    serveCommand c s = .next { s with err := ⟨true, .illegalCmd, c⟩ })

/-- Rule R184: HMAC.KEYEND leaves in KEY the held key (from HKEY) or the finalized key hash padded with
32 zero bytes (from HKEYH), and starts the inner hash with the inner pad: HMSG, BLEN = 0, LEN = 512,
KLEN unchanged. -/
def Obligations.HmacKeyendStartsTheInnerHash : Prop :=
  (∀ s : State, s.err.locked = true → exec .hmacKeyend s = .next s) ∧
  (∀ s : State, s.err.locked = false → s.hs ≠ .hkey → s.hs ≠ .hkeyh →
    exec .hmacKeyend s = .next { s with err := ⟨true, .sequence, 0x00000012⟩ }) ∧
  (∀ s : State, s.err.locked = false → s.hs = .hkey →
    ∃ d : Datapath, exec .hmacKeyend s = .next { s with dp := d, hs := .hmsg } ∧
      d = s.dp.coreInit.absorbAll (s.mac.key.toList.map (· ^^^ 0x36)) ∧
      d.blen = 0 ∧ d.len = 512 ∧ d.compressions = s.dp.compressions + 1) ∧
  (∀ s : State, s.err.locked = false → s.hs = .hkeyh →
    ∃ (d : Datapath) (k : Vector Byte 64),
      exec .hmacKeyend s = .next { s with dp := d, mac := { s.mac with key := k }, hs := .hmsg } ∧
      k.toList = s.dp.finalDigest.toList ++ List.replicate 32 0 ∧
      d = s.dp.finalized.coreInit.absorbAll (k.toList.map (· ^^^ 0x36)) ∧
      d.blen = 0 ∧ d.len = 512 ∧
      d.compressions = s.dp.compressions + (if s.dp.blen.toNat ≤ 55 then 1 else 2) + 1) ∧
  (∀ (c : Word) (s : State), s.err.locked = false → fieldOp c = 0x12 → c ≠ 0x00000012 →
    serveCommand c s = .next { s with err := ⟨true, .illegalCmd, c⟩ })

/-- Rule R185: HMAC.MSG N absorbs DATA[0..N−1] into the inner hash, in HMSG only. -/
def Obligations.HmacMsgAbsorbsNBytes : Prop :=
  (∀ (n : Byte) (s : State), s.err.locked = true → exec (.hmacMsg n) s = .next s) ∧
  (∀ (n : Byte) (s : State), s.err.locked = false → 64 < n.toNat →
    exec (.hmacMsg n) s = .next { s with err := ⟨true, .badLen, enc 0x13 n 0⟩ }) ∧
  (∀ (n : Byte) (s : State), s.err.locked = false → n.toNat ≤ 64 → s.hs ≠ .hmsg →
    exec (.hmacMsg n) s = .next { s with err := ⟨true, .sequence, enc 0x13 n 0⟩ }) ∧
  (∀ (n : Byte) (s : State), s.err.locked = false → n.toNat ≤ 64 → s.hs = .hmsg →
    ∃ d : Datapath, exec (.hmacMsg n) s = .next { s with dp := d } ∧
      d = s.dp.absorbAll ((List.range n.toNat).map fun i => s.data.getD i 0) ∧
      d.blen.toNat = (s.dp.blen.toNat + n.toNat) % 64 ∧
      d.compressions = s.dp.compressions + (s.dp.blen.toNat + n.toNat) / 64) ∧
  (∀ (c : Word) (s : State), s.err.locked = false → fieldOp c = 0x13 → c >>> 16 ≠ 0 →
    serveCommand c s = .next { s with err := ⟨true, .illegalCmd, c⟩ })

/-- Rule R186: HMAC.FINAL finishes the inner hash, hashes the outer pad and the inner digest (768
bits), publishes the result in DOUT and destroys the key and the inner digest; 3 or 4 compressions. -/
def Obligations.HmacFinalPublishesTheMac : Prop :=
  (∀ s : State, s.err.locked = true → exec .hmacFinal s = .next s) ∧
  (∀ s : State, s.err.locked = false → s.hs ≠ .hmsg →
    exec .hmacFinal s = .next { s with err := ⟨true, .sequence, 0x00000014⟩ }) ∧
  (∀ s : State, s.err.locked = false → s.hs = .hmsg →
    ∃ outer : Datapath,
      exec .hmacFinal s = .next { s with
        dout := outer.finalDigest
        dp := outer.finalized
        mac := { key := Vector.replicate 64 0, klen := 0, idig := Vector.replicate 32 0 }
        hs := .hmacDone } ∧
      outer = s.dp.finalized.coreInit.absorbAll
        (s.mac.key.toList.map (· ^^^ 0x5c) ++ s.dp.finalDigest.toList) ∧
      outer.len = 768 ∧ outer.finalized.blen = 0 ∧
      outer.finalized.compressions =
        s.dp.compressions + (if s.dp.blen.toNat ≤ 55 then 3 else 4)) ∧
  (∀ (c : Word) (s : State), s.err.locked = false → fieldOp c = 0x14 → c ≠ 0x00000014 →
    serveCommand c s = .next { s with err := ⟨true, .illegalCmd, c⟩ })

/-! ## The comparison unit's commands -/

/-- Rule R231: CMP.BEGIN decides a length mismatch at once (DONE, EQ = 0) and else becomes ACTIVE with
CMP_REMAIN = CMP_LEN_A; SEQUENCE if a comparison is active. -/
def Obligations.CmpBeginChecksTheLengths : Prop :=
  (∀ s : State, s.err.locked = true → exec .cmpBegin s = .next s) ∧
  (∀ s : State, s.err.locked = false → s.cmp.cs = .active →
    exec .cmpBegin s = .next { s with err := ⟨true, .sequence, 0x00000020⟩ }) ∧
  (∀ s : State, s.err.locked = false → s.cmp.cs ≠ .active → s.cmp.lenA ≠ s.cmp.lenB →
    exec .cmpBegin s = .next { s with
      cmp := { s.cmp with acc := 0, eq := false, remain := 0, cs := .done } }) ∧
  (∀ s : State, s.err.locked = false → s.cmp.cs ≠ .active → s.cmp.lenA = s.cmp.lenB →
    exec .cmpBegin s = .next { s with
      cmp := { s.cmp with acc := 0, eq := false, remain := s.cmp.lenA, cs := .active } }) ∧
  (∀ (c : Word) (s : State), s.err.locked = false → fieldOp c = 0x20 → c ≠ 0x00000020 →
    serveCommand c s = .next { s with err := ⟨true, .illegalCmd, c⟩ })

/-- Rule R232: CMP.FEED N ORs DATA[i] ⊕ DATB[i] into ACC for every i < N and lowers CMP_REMAIN by N,
which never wraps; BAD_LEN for N > 64, then SEQUENCE, then BAD_LEN for N > CMP_REMAIN. -/
def Obligations.CmpFeedAccumulatesNPairs : Prop :=
  (∀ (n : Byte) (s : State), s.err.locked = true → exec (.cmpFeed n) s = .next s) ∧
  (∀ (n : Byte) (s : State), s.err.locked = false → 64 < n.toNat →
    exec (.cmpFeed n) s = .next { s with err := ⟨true, .badLen, enc 0x21 n 0⟩ }) ∧
  (∀ (n : Byte) (s : State), s.err.locked = false → n.toNat ≤ 64 → s.cmp.cs ≠ .active →
    exec (.cmpFeed n) s = .next { s with err := ⟨true, .sequence, enc 0x21 n 0⟩ }) ∧
  (∀ (n : Byte) (s : State), s.err.locked = false → n.toNat ≤ 64 → s.cmp.cs = .active →
    s.cmp.remain.toNat < n.toNat →
    exec (.cmpFeed n) s = .next { s with err := ⟨true, .badLen, enc 0x21 n 0⟩ }) ∧
  (∀ (n : Byte) (s : State), s.err.locked = false → n.toNat ≤ 64 → s.cmp.cs = .active →
    n.toNat ≤ s.cmp.remain.toNat →
    ∃ r : Word, r.toNat = s.cmp.remain.toNat - n.toNat ∧
      exec (.cmpFeed n) s = .next { s with cmp := { s.cmp with
        acc := (List.range n.toNat).foldl
          (fun acc i => acc ||| (s.data.getD i 0 ^^^ s.datb.getD i 0)) s.cmp.acc
        remain := r } }) ∧
  (∀ (c : Word) (s : State), s.err.locked = false → fieldOp c = 0x21 → c >>> 16 ≠ 0 →
    serveCommand c s = .next { s with err := ⟨true, .illegalCmd, c⟩ })

/-- Rule R233: CMP.END gives EQ = 1 exactly when ACC = 0 and clears ACC; in DONE it changes nothing;
SEQUENCE in IDLE, CMP_INCOMPLETE while bytes remain. -/
def Obligations.CmpEndGivesTheVerdict : Prop :=
  (∀ s : State, s.err.locked = true → exec .cmpEnd s = .next s) ∧
  (∀ s : State, s.err.locked = false → s.cmp.cs = .idle →
    exec .cmpEnd s = .next { s with err := ⟨true, .sequence, 0x00000022⟩ }) ∧
  (∀ s : State, s.err.locked = false → s.cmp.cs = .active → s.cmp.remain ≠ 0 →
    exec .cmpEnd s = .next { s with err := ⟨true, .cmpIncomplete, 0x00000022⟩ }) ∧
  (∀ s : State, s.err.locked = false → s.cmp.cs = .active → s.cmp.remain = 0 →
    exec .cmpEnd s = .next { s with
      cmp := { s.cmp with eq := decide (s.cmp.acc = 0), acc := 0, cs := .done } }) ∧
  (∀ s : State, s.err.locked = false → s.cmp.cs = .done → exec .cmpEnd s = .next s) ∧
  (∀ (c : Word) (s : State), s.err.locked = false → fieldOp c = 0x22 → c ≠ 0x00000022 →
    serveCommand c s = .next { s with err := ⟨true, .illegalCmd, c⟩ })

/-! ## The datapath's primitives and the ROMs -/

/-- Rules R138 and R142: core_init loads H0 and clears BUF, BLEN and LEN, W and the working variables
untouched; zeroise clears H, W, a..h, BUF, BLEN and LEN. -/
def Obligations.CoreInitLoadsAndZeroiseClears : Prop :=
  ∀ d : Datapath,
    d.coreInit = { d with
      h := h0Rom, buf := Vector.replicate 64 0, blen := 0, len := 0 } ∧
    d.zeroise = { d with
      h := Vector.replicate 8 0, w := Vector.replicate 64 0, wv := ⟨0, 0, 0, 0, 0, 0, 0, 0⟩,
      buf := Vector.replicate 64 0, blen := 0, len := 0 }

/-- Rules R139 and R140: pad_byte places one byte at BUF[BLEN] and compresses when the block fills,
without counting in LEN; absorb adds 8 to LEN, modulo 2^64, and places the byte. -/
def Obligations.AbsorbPlacesAndCountsOneByte : Prop :=
  ∀ (b : Byte) (d : Datapath),
    (d.blen.toNat < 63 → d.padByte b =
      { d with buf := d.buf.setIfInBounds d.blen.toNat b, blen := d.blen + 1 }) ∧
    (d.blen.toNat = 63 → ∃ e : Datapath, e.buf.getD 63 0 = b ∧
      (∀ j, j < 63 → e.buf.getD j 0 = d.buf.getD j 0) ∧ e = { d with buf := e.buf } ∧
      d.padByte b = { e.compress with blen := 0 } ∧ (d.padByte b).buf = e.buf) ∧
    (d.padByte b).len = d.len ∧
    d.absorb b = Datapath.padByte b { d with len := d.len + 8 } ∧
    (d.absorb b).len.toNat = (d.len.toNat + 8) % 2 ^ 64

/-- Rule R141: finalize places 0x80, (55 − BLEN) mod 64 zero bytes and the 64-bit big-endian length,
returns the eight hash words rendered big-endian, and zeroises; it ends with BLEN = 0 after 1
compression if BLEN ≤ 55 on entry, else 2. -/
def Obligations.FinalizePadsAndRenders : Prop :=
  ∀ d : Datapath, ∃ e : Datapath,
    e = d.padAll ([0x80] ++ List.replicate ((55 + 64 - d.blen.toNat) % 64) 0x00 ++
      [d.len.extractLsb' 56 8, d.len.extractLsb' 48 8, d.len.extractLsb' 40 8,
       d.len.extractLsb' 32 8, d.len.extractLsb' 24 8, d.len.extractLsb' 16 8,
       d.len.extractLsb' 8 8, d.len.extractLsb' 0 8]) ∧
    e.blen = 0 ∧ e.compressions = d.compressions + (if d.blen.toNat ≤ 55 then 1 else 2) ∧
    d.finalDigest.toList = e.h.toList.flatMap be32 ∧ d.finalized = e.zeroise

/-- Rule R182: key_byte holds a byte while fewer than 64 are held; the 65th byte starts the key hash
with the 64 held bytes, and every later byte is absorbed. -/
def Obligations.KeyByteHoldsThenHashes : Prop :=
  ∀ (b : Byte) (s : State),
    (s.hs = .hkey → s.mac.klen.toNat < 64 → keyByte b s = { s with mac := { s.mac with
      key := s.mac.key.setIfInBounds s.mac.klen.toNat b, klen := s.mac.klen + 1 } }) ∧
    (s.hs = .hkey → 64 ≤ s.mac.klen.toNat → keyByte b s = { s with
      dp := s.dp.coreInit.absorbAll (s.mac.key.toList ++ [b])
      mac := { s.mac with key := Vector.replicate 64 0, klen := 65 }
      hs := .hkeyh }) ∧
    (s.hs ≠ .hkey → keyByte b s = { s with dp := s.dp.absorb b })

/-- Rules R131 and R132: the first 16 schedule words are the block's words, big-endian, and each later
word of the finished schedule is W[t-16] + σ0(W[t-15]) + W[t-7] + σ1(W[t-2]), whatever W held
before. -/
def Obligations.ScheduleSatisfiesItsRecurrence : Prop :=
  ∀ (b : Vector Byte 64) (old : Vector Word 64), ∃ w : Vector Word 64,
    w = expandSchedule (formWords b old) ∧
    (∀ j, j < 16 → w.getD j 0 =
      ((b.getD (4 * j) 0).setWidth 32 <<< 24) ||| ((b.getD (4 * j + 1) 0).setWidth 32 <<< 16) |||
        ((b.getD (4 * j + 2) 0).setWidth 32 <<< 8) ||| (b.getD (4 * j + 3) 0).setWidth 32) ∧
    (∀ t, 16 ≤ t → t < 64 → w.getD t 0 =
      w.getD (t - 16) 0 + smallSigma0 (w.getD (t - 15) 0) + w.getD (t - 7) 0 +
        smallSigma1 (w.getD (t - 2) 0))

/-- Rules R133–R136: a compression of BUF gives the hash words that the 64 rounds over the constants
and the block's schedule give, and changes W, the working variables and H only. Besides, by the model's
reading of rule R24, RC is 0 after it (log entry 5), and the model counts it (log entry 3). -/
def Obligations.CompressionMatchesTheBlockFunction : Prop :=
  ∀ d : Datapath, ∃ v : Working,
    d.compress = { d with
      h := Reference.compressBlock d.h d.buf.toList
      w := expandSchedule (formWords d.buf d.w)
      wv := v
      rc := 0
      compressions := d.compressions + 1 } ∧
    d.compress.h = feedForward d.h v ∧
    d.compress.w.toList = Reference.schedule d.buf.toList

/-- Rules R124–R129: σ0, σ1, Σ0, Σ1 are the rotations and shifts named, Ch selects bit by bit, Maj is
the bit majority; with their corner cases and examples. -/
def Obligations.BitFunctionsAreAsTabulated : Prop :=
  (∀ x : Word,
    smallSigma0 x = x.rotateRight 7 ^^^ x.rotateRight 18 ^^^ (x >>> 3) ∧
    smallSigma1 x = x.rotateRight 17 ^^^ x.rotateRight 19 ^^^ (x >>> 10) ∧
    bigSigma0 x = x.rotateRight 2 ^^^ x.rotateRight 13 ^^^ x.rotateRight 22 ∧
    bigSigma1 x = x.rotateRight 6 ^^^ x.rotateRight 11 ^^^ x.rotateRight 25) ∧
  (∀ (e f g : Word) (i : Nat), i < 32 →
    (choose e f g).getLsbD i = (if e.getLsbD i then f.getLsbD i else g.getLsbD i) ∧
    (majority e f g).getLsbD i =
      decide (2 ≤ (e.getLsbD i).toNat + (f.getLsbD i).toNat + (g.getLsbD i).toNat)) ∧
  (smallSigma0 0 = 0 ∧ smallSigma1 0 = 0 ∧ bigSigma0 0 = 0 ∧ bigSigma1 0 = 0 ∧
    smallSigma0 0xFFFFFFFF = 0x1FFFFFFF ∧ smallSigma1 0xFFFFFFFF = 0x003FFFFF ∧
    bigSigma0 0xFFFFFFFF = 0xFFFFFFFF ∧ bigSigma1 0xFFFFFFFF = 0xFFFFFFFF) ∧
  (∀ x y z : Word, choose 0 y z = z ∧ choose 0xFFFFFFFF y z = y ∧ majority x x y = x ∧
    majority 0 0xFFFFFFFF z = z) ∧
  smallSigma0 0x12345678 = 0xe7fce6ee ∧ smallSigma1 0x12345678 = 0xa1f78649 ∧
  bigSigma0 0x12345678 = 0x66146474 ∧ bigSigma1 0x12345678 = 0x3561abda ∧
  choose 0xff00ff00 0x0f0f0f0f 0x33333333 = 0x0f330f33 ∧
  majority 0xff00ff00 0x0f0f0f0f 0x33333333 = 0x3f033f03

/-- Rule R120: H0[i] is the integer square root of p_i · 2^64, modulo 2^32, for the first 8 primes. -/
def Obligations.InitialWordsComeFromSquareRoots : Prop :=
  ∀ i, i < 8 → ∃ r : Nat,
    r ^ 2 ≤ Nat.nth Nat.Prime i * 2 ^ 64 ∧ Nat.nth Nat.Prime i * 2 ^ 64 < (r + 1) ^ 2 ∧
      (h0Rom.getD i 0).toNat = r % 2 ^ 32

/-- Rule R121: K[t] is the integer cube root of p_t · 2^96, modulo 2^32, for the first 64 primes. -/
def Obligations.RoundConstantsComeFromCubeRoots : Prop :=
  ∀ t, t < 64 → ∃ r : Nat,
    r ^ 3 ≤ Nat.nth Nat.Prime t * 2 ^ 96 ∧ Nat.nth Nat.Prime t * 2 ^ 96 < (r + 1) ^ 3 ∧
      (kRom.getD t 0).toNat = r % 2 ^ 32

/-! ## Errors -/

/-- Rules R262 and R263: at an unlocked block the first failing check, in the order of rule R262, is
the error reported, with the complete command word and no other effect; if none fails, no error is
entered. A word of no row is check 1. -/
def Obligations.FirstFailingCheckIsReported : Prop :=
  (∀ (c : Word) (s : State), s.err.locked = false → (∀ r, r ∈ opcodeMap → r.accepts c = false) →
    serveCommand c s = .next { s with err := ⟨true, .illegalCmd, c⟩ }) ∧
  (∀ (i : Instr) (s : State) (code : ErrCode), s.err.locked = false →
    Reference.firstError i s = some code →
    exec i s = .next { s with err := ⟨true, code, encode i⟩ }) ∧
  (∀ (i : Instr) (s : State), s.err.locked = false → Reference.firstError i s = none →
    ∃ t, exec i s = .next t ∧ t.err.locked = false)

/-- Rule R264: while ERR = 1 every word but exactly 0x000000FF is ignored; writes that are not to CMD
and reads of every register but STATUS, ERRCODE and ERRCMD behave as when ERR = 0. -/
def Obligations.LockedBlockIgnoresCommands : Prop :=
  (∀ (c : Word) (s : State), s.err.locked = true → c ≠ 0x000000FF → serveCommand c s = .next s) ∧
  (∀ (i : Instr) (s : State), s.err.locked = true → i ≠ .softReset → exec i s = .next s) ∧
  (∀ (off : Offset) (v : Word) (s : State) (e : ErrRegs), off ≠ 0x14 →
    ∃ t, busWrite off v s = .next t ∧
      busWrite off v { s with err := e } = .next { t with err := e }) ∧
  (∀ (off : Offset) (s : State) (e : ErrRegs), off ≠ 0x08 → off ≠ 0x0C → off ≠ 0x10 →
    busRead off { s with err := e } = busRead off s)

/-- Rule R265: from a locked state every step either keeps the error as it is or is the service of a
hardware reset or of an accepted write of 0x000000FF to CMD, which resets the whole block; the reset
state's registers include the model's own count of compressions, 0 after a reset (log entry 3). -/
def Obligations.OnlyResetLeavesTheLock : Prop :=
  ∀ s t : State, s.err.locked = true → step s = .next t →
    t.err = s.err ∨
      (∃ rest, (s.port = .hardReset :: rest ∨ s.port = .write 0x14 4 0x000000FF :: rest) ∧
        t.sameRegisters State.reset)

/-- Rules R260 and R263: an error is entered only by the service of an accepted write to CMD; it
records that word and a code other than NONE, and the failing command writes no other state. -/
def Obligations.ErrorsArePreciseAndSynchronous : Prop :=
  ∀ s t : State, s.err.locked = false → step s = .next t → t.err.locked = true →
    ∃ (c : Word) (rest : List BusEvent) (code : ErrCode),
      s.port = .write 0x14 4 c :: rest ∧ code ≠ .none ∧
      t = { s with
        err := ⟨true, code, c⟩, port := rest, responses := s.responses ++ [.written] }

/-- Rule R261: the code values, and which commands raise which error; ERRCMD holds the complete
command word. -/
def Obligations.ErrorCodesNameTheirCauses : Prop :=
  (ErrCode.none.byte = 0x00 ∧ ErrCode.illegalCmd.byte = 0x01 ∧ ErrCode.badLen.byte = 0x02 ∧
    ErrCode.unsupportedAlg.byte = 0x03 ∧ ErrCode.sequence.byte = 0x04 ∧
    ErrCode.cmpIncomplete.byte = 0x05 ∧ ∀ code : ErrCode, code.byte.toNat ≤ 0x05) ∧
  (∀ (i : Instr) (s t : State), s.err.locked = false → exec i s = .next t → t.err.locked = true →
    t.err.cmd = encode i ∧
    (t.err.code = .badLen ∧ (∃ n, Reference.countOf i = some n ∧
        (64 < n.toNat ∨ (i = .cmpFeed n ∧ s.cmp.remain.toNat < n.toNat))) ∨
      t.err.code = .unsupportedAlg ∧ (∃ alg, i = .hmacBegin alg ∧ alg ≠ 0x01) ∨
      t.err.code = .sequence ∧ Reference.legalIn i s.hs s.cmp.cs = false ∧ i ≠ .nop ∧
        i ≠ .softReset ∨
      t.err.code = .cmpIncomplete ∧ i = .cmpEnd ∧ s.cmp.cs = .active ∧ s.cmp.remain ≠ 0)) ∧
  (∀ (c : Word) (s t : State), s.err.locked = false → serveCommand c s = .next t →
    ((∃ e, decode c = .error e) → t.err = ⟨true, .illegalCmd, c⟩) ∧
    (t.err.locked = true → t.err.code = .illegalCmd → ∃ e, decode c = .error e))

/-! ## The bus -/

/-- Rules R61 and R266: an access whose size is not 4 or whose offset is not 4-aligned gets a bus error
response, a read returns 0, and no state changes. -/
def Obligations.BusErrorsChangeNothing : Prop :=
  (∀ (s : State) (off : Offset) (size : Nat) (rest : List BusEvent),
    s.port = .read off size :: rest → (size ≠ 4 ∨ off.toNat % 4 ≠ 0) →
    step s = .next { s with
      port := rest, responses := s.responses ++ [.readError 0x00000000] }) ∧
  (∀ (s : State) (off : Offset) (size : Nat) (v : Word) (rest : List BusEvent),
    s.port = .write off size v :: rest → (size ≠ 4 ∨ off.toNat % 4 ≠ 0) →
    step s = .next { s with port := rest, responses := s.responses ++ [.writeError] })

/-- Rules R63 and R64: what every offset of the register map reads as, in little-endian byte lanes, and
what a write to it does; reserved offsets read 0, and writes to read-only and reserved offsets are
ignored. -/
def Obligations.RegisterMapReadsAndWrites : Prop :=
  (∀ s : State,
    busRead 0x00 s = 0x53484132 ∧ busRead 0x04 s = 0x00000001 ∧ busRead 0x08 s = s.status ∧
    busRead 0x0C s = s.err.code.byte.setWidth 32 ∧ busRead 0x10 s = s.err.cmd ∧
    busRead 0x14 s = 0 ∧ busRead 0x18 s = s.cmp.lenA ∧ busRead 0x1C s = s.cmp.lenB ∧
    busRead 0xC0 s = s.cmp.remain ∧
    (∀ off : Offset, 0xC4 ≤ off.toNat → busRead off s = 0) ∧
    (∀ i, i < 8 → busRead (BitVec.ofNat 8 (0x20 + 4 * i)) s =
      (s.dout.getD (4 * i) 0).setWidth 32 ||| ((s.dout.getD (4 * i + 1) 0).setWidth 32 <<< 8) |||
        ((s.dout.getD (4 * i + 2) 0).setWidth 32 <<< 16) |||
        ((s.dout.getD (4 * i + 3) 0).setWidth 32 <<< 24)) ∧
    (∀ i, i < 16 → busRead (BitVec.ofNat 8 (0x40 + 4 * i)) s =
      (s.data.getD (4 * i) 0).setWidth 32 ||| ((s.data.getD (4 * i + 1) 0).setWidth 32 <<< 8) |||
        ((s.data.getD (4 * i + 2) 0).setWidth 32 <<< 16) |||
        ((s.data.getD (4 * i + 3) 0).setWidth 32 <<< 24)) ∧
    (∀ i, i < 16 → busRead (BitVec.ofNat 8 (0x80 + 4 * i)) s =
      (s.datb.getD (4 * i) 0).setWidth 32 ||| ((s.datb.getD (4 * i + 1) 0).setWidth 32 <<< 8) |||
        ((s.datb.getD (4 * i + 2) 0).setWidth 32 <<< 16) |||
        ((s.datb.getD (4 * i + 3) 0).setWidth 32 <<< 24))) ∧
  (∀ (s : State) (v : Word),
    busWrite 0x14 v s = serveCommand v s ∧
    busWrite 0x18 v s = .next { s with cmp := { s.cmp with lenA := v } } ∧
    busWrite 0x1C v s = .next { s with cmp := { s.cmp with lenB := v } } ∧
    (∀ i, i < 16 → ∃ w : Vector Byte 64,
      busWrite (BitVec.ofNat 8 (0x40 + 4 * i)) v s = .next { s with data := w } ∧
      ∀ j, j < 64 → w.getD j 0 =
        if j / 4 = i then v.extractLsb' (8 * (j % 4)) 8 else s.data.getD j 0) ∧
    (∀ i, i < 16 → ∃ w : Vector Byte 64,
      busWrite (BitVec.ofNat 8 (0x80 + 4 * i)) v s = .next { s with datb := w } ∧
      ∀ j, j < 64 → w.getD j 0 =
        if j / 4 = i then v.extractLsb' (8 * (j % 4)) 8 else s.datb.getD j 0) ∧
    (∀ off : Offset, off.toNat % 4 = 0 →
      (off.toNat < 0x14 ∨ (0x20 ≤ off.toNat ∧ off.toNat < 0x40) ∨ 0xC0 ≤ off.toNat) →
      busWrite off v s = .next s))

/-- Rule R72: a read of a register the host can write (DATA, DATB, CMP_LEN_A, CMP_LEN_B) gives the last
value written to it, and a write to any offset but CMD leaves what every other aligned offset reads
alone. -/
def Obligations.ReadReturnsTheLastWrite : Prop :=
  ∀ (off other : Offset) (v : Word) (s : State), off.toNat % 4 = 0 → other.toNat % 4 = 0 →
    off ≠ 0x14 → ∃ t, busWrite off v s = .next t ∧
      ((off = 0x18 ∨ off = 0x1C ∨ (0x40 ≤ off.toNat ∧ off.toNat < 0xC0)) → busRead off t = v) ∧
      (other ≠ off → busRead other t = busRead other s)

/-- Rule R96: when the next bus event is an accepted write to CMD of a word that decodes to a command,
the step is that command's execution, with the event taken from the port and its completion
answered. -/
def Obligations.StepRunsTheDecodedCommand : Prop :=
  ∀ (s : State) (c : Word) (i : Instr) (rest : List BusEvent),
    s.port = .write 0x14 4 c :: rest → decode c = .ok i →
    step s = (match exec i { s with port := rest } with
      | .next t => .next { t with responses := t.responses ++ [.written] }
      | .fault f => .fault f
      | .refused q => .refused q)

/-- Rules R62, R63, R69, R72 and R96: a step serves exactly the oldest event and answers it: an accepted
read with the register's value and no other change; an accepted write with the whole effect of that
write, whatever its offset and word, and its completion; every access with one response, a reset with
none. The model's choices in this: with no event pending the block waits (log entry 1), every answer is
kept in a list of responses (log entry 2), and the pending events and the earlier responses outlive a
reset (log entry 10). -/
def Obligations.StepServesExactlyOneEvent : Prop :=
  (∀ s : State, s.port = [] → step s = .next s) ∧
  (∀ (s : State) (off : Offset) (rest : List BusEvent), s.port = .read off 4 :: rest →
    off.toNat % 4 = 0 → step s = .next { s with
      port := rest, responses := s.responses ++ [.readData (busRead off s)] }) ∧
  (∀ (s : State) (off : Offset) (v : Word) (rest : List BusEvent),
    s.port = .write off 4 v :: rest → off.toNat % 4 = 0 →
    step s = answer .written (busWrite off v { s with port := rest })) ∧
  (∀ (s : State) (e : BusEvent) (rest : List BusEvent), s.port = e :: rest →
    ∃ t rs, step s = .next t ∧ t.port = rest ∧ t.responses = s.responses ++ rs ∧
      rs.length = (if e = .hardReset then 0 else 1))

/-- Rule R290: reset sets every state element to its reset value; every readable register then reads 0
except ID and VERSION. That the port and the responses, the model's own, outlive the reset is the choice
of log entry 10; that the count of compressions starts again at 0 is the choice of log entry 3. -/
def Obligations.ResetSetsEveryElement : Prop :=
  (∀ (s : State) (rest : List BusEvent), s.port = .hardReset :: rest →
    ∃ t : State, step s = .next t ∧
      t.dp.h = Vector.replicate 8 0 ∧ t.dp.wv = ⟨0, 0, 0, 0, 0, 0, 0, 0⟩ ∧
      t.dp.w = Vector.replicate 64 0 ∧ t.dp.rc = 0 ∧ t.dp.buf = Vector.replicate 64 0 ∧
      t.dp.blen = 0 ∧ t.dp.len = 0 ∧ t.mac.key = Vector.replicate 64 0 ∧ t.mac.klen = 0 ∧
      t.mac.idig = Vector.replicate 32 0 ∧ t.dout = Vector.replicate 32 0 ∧
      t.data = Vector.replicate 64 0 ∧ t.datb = Vector.replicate 64 0 ∧
      t.cmp.lenA = 0 ∧ t.cmp.lenB = 0 ∧ t.cmp.remain = 0 ∧ t.cmp.acc = 0 ∧ t.cmp.eq = false ∧
      t.hs = .idle ∧ t.cmp.cs = .idle ∧ t.err = ⟨false, .none, 0x00000000⟩ ∧
      t.sameRegisters State.reset ∧ t.port = rest ∧ t.responses = s.responses) ∧
  (∀ s : State, exec .softReset s = serve .hardReset s) ∧
  (∀ off : Offset, off.toNat % 4 = 0 → busRead off State.reset =
    if off = 0x00 then 0x53484132 else if off = 0x04 then 0x00000001 else 0)

/-- Rule R37: each field of STATUS, and the reserved bits read 0; its reset value is 0. -/
def Obligations.StatusShowsEveryField : Prop :=
  State.reset.status = 0x00000000 ∧ ∀ s : State,
    s.status.getLsbD 0 = s.err.locked ∧ s.status.extractLsb' 1 3 = s.hs.code ∧
    s.status.extractLsb' 4 2 = s.cmp.cs.code ∧ s.status.getLsbD 6 = s.cmp.eq ∧
    s.status.getLsbD 7 = false ∧ s.status.extractLsb' 8 6 = s.dp.blen ∧
    s.status.extractLsb' 14 2 = 0 ∧ s.status.extractLsb' 16 7 = s.mac.klen ∧
    s.status.extractLsb' 23 9 = 0

/-- Rules R40 and R269: what the bus reads depends on the visible state alone; H, the working
variables, W, RC, BUF, LEN, KEY, IDIG and ACC are never readable. -/
def Obligations.HiddenStateIsNeverReadable : Prop :=
  ∀ (s t : State) (off : Offset), s.sameVisible t → busRead off s = busRead off t

/-- Rule R60: BASE is 256-byte aligned, the window is the 256 bytes at BASE, and its addresses decode
to their offsets. -/
def Obligations.WindowDecodesItsOwnAddresses : Prop :=
  Config.base % 256 = 0 ∧
  (∀ off : Offset, Config.windowOffset (Config.hostAddress off) = some off) ∧
  (∀ (addr : Nat) (off : Offset), Config.windowOffset addr = some off →
    addr = Config.hostAddress off)

/-! ## Whole-machine rules -/

/-- The reset state meets the invariants of rule R41 (rule R290). -/
def Obligations.ResetStateMeetsTheInvariants : Prop :=
  State.reset.Inv ∧ State.reset.lengthsAgree

/-- Rule R41 (with rules R24, R27 and R28): every step keeps the invariants. Item 4 is stated in every
HS but HMSG, where rule R184 leaves KLEN at 65 after a long key (log entry 4). -/
def Obligations.EveryStepKeepsTheInvariants : Prop :=
  ∀ s t : State, s.Inv → step s = .next t → t.Inv

/-- Rules R26, R139 and R140: in every state a run reaches, LEN counts exactly the buffered bytes
modulo a block: LEN mod 512 = 8 · BLEN, a relation every step keeps, the wrap modulo 2^64 included. -/
def Obligations.EveryStepKeepsLengthsInAgreement : Prop :=
  ∀ s t : State, s.lengthsAgree → step s = .next t → t.lengthsAgree

/-- Rule R276: "every legal command completes with its specified effect": no state, pending event or
command stops the machine. -/
def Obligations.TheMachineNeverStops : Prop :=
  (∀ s : State, ∃ t, step s = .next t) ∧ (∀ (i : Instr) (s : State), ∃ t, exec i s = .next t)

/-- Rule R188: HS after every error-free command, as tabulated; a command that is not legal in HS
leaves HS alone. In states that meet the invariants. -/
def Obligations.HashStateFollowsTheTable : Prop :=
  ∀ (i : Instr) (s t : State), s.Inv → s.err.locked = false → exec i s = .next t →
    t.hs = (if Reference.firstError i s = none then Reference.nextHs i s else s.hs)

/-- Rules R29, R30 and R31 and the header of 45_compare_unit.md: commands never write DATA, DATB,
CMP_LEN_A or CMP_LEN_B; hash commands never touch the comparison unit, and CMP commands never touch the
hash unit; DOUT is written by four commands only. Rules R145, R146 and R147: the direct hash commands
leave the HMAC context alone. Said also through the bus: what other offsets read is unchanged. -/
def Obligations.UnitsAreIndependent : Prop :=
  ∀ (i : Instr) (s t : State), i ≠ .softReset → exec i s = .next t →
    t.data = s.data ∧ t.datb = s.datb ∧ t.cmp.lenA = s.cmp.lenA ∧ t.cmp.lenB = s.cmp.lenB ∧
    t.port = s.port ∧ t.responses = s.responses ∧
    ((∀ n, i ≠ .cmpFeed n) → i ≠ .cmpBegin → i ≠ .cmpEnd → t.cmp = s.cmp) ∧
    ((i = .cmpBegin ∨ (∃ n, i = .cmpFeed n) ∨ i = .cmpEnd) →
      t.dp = s.dp ∧ t.mac = s.mac ∧ t.hs = s.hs ∧ t.dout = s.dout) ∧
    ((i = .shaInit ∨ (∃ n, i = .shaUpdate n) ∨ i = .shaFinal) → t.mac = s.mac) ∧
    (i ≠ .shaInit → i ≠ .shaFinal → (∀ alg, i ≠ .hmacBegin alg) → i ≠ .hmacFinal →
      t.dout = s.dout) ∧
    (∀ off : Offset, off ≠ 0x08 → off ≠ 0x0C → off ≠ 0x10 → off ≠ 0xC0 →
      ¬ (0x20 ≤ off.toNat ∧ off.toNat < 0x40) → busRead off t = busRead off s)

/-- Rule R296: the number of compressions each error-free command performs. SOFT_RESET is left out
because the model's count starts again at 0 with the reset (log entry 3). -/
def Obligations.CompressionsPerCommandAreFixed : Prop :=
  ∀ (i : Instr) (s t : State), s.Inv → s.err.locked = false → i ≠ .softReset →
    Reference.firstError i s = none → exec i s = .next t →
    t.dp.compressions = s.dp.compressions + Reference.compressionCount i s

/-- Rules R22, R23 and R24: W, the working variables and RC are scratch: two states that differ only
there step to states that differ only there, with the same responses; so their values between commands
are never observed. -/
def Obligations.ScratchRegistersAreNeverObserved : Prop :=
  ∀ s t : State, s.sameButScratch t →
    ∃ s' t', step s = .next s' ∧ step t = .next t' ∧ s'.sameButScratch t' ∧
      s'.responses = t'.responses

/-! ## What the digest, MAC and comparison are -/

/-- Rules R140 and R144: from a datapath that has absorbed m, SHA.UPDATE N and HMAC.MSG N leave one that
has absorbed m ++ DATA[0..N−1]: only the concatenation matters; and N = 0 changes no state. -/
def Obligations.AbsorbingDependsOnlyOnTheBytes : Prop :=
  (∀ (n : Byte) (m : List Byte) (s : State), s.err.locked = false → n.toNat ≤ 64 → s.hs = .sha →
    s.dp.Absorbed m → ∃ d : Datapath, exec (.shaUpdate n) s = .next { s with dp := d } ∧
      d.Absorbed (m ++ s.data.toList.take n.toNat)) ∧
  (∀ (n : Byte) (k m : List Byte) (s : State), s.err.locked = false → n.toNat ≤ 64 →
    s.MessageAbsorbed k m → ∃ d : Datapath, exec (.hmacMsg n) s = .next { s with dp := d } ∧
      ({ s with dp := d } : State).MessageAbsorbed k (m ++ s.data.toList.take n.toNat)) ∧
  (∀ s : State, s.err.locked = false → s.hs = .sha → exec (.shaUpdate 0) s = .next s)

/-- Rule R143: SHA.FINAL publishes SHA-256 of exactly the absorbed bytes, as the document's
whole-buffer padding and block-by-block processing define it. The padded message is
64·⌈(L+9)/64⌉ bytes. -/
def Obligations.ShaFinalPublishesSha256 : Prop :=
  (∀ (m : List Byte) (s : State), s.err.locked = false → s.hs = .sha → s.dp.Absorbed m →
    ∃ t, exec .shaFinal s = .next t ∧ t.dout.toList = Reference.sha256 m ∧ t.hs = .shaDone ∧
      t.dp.cleared ∧ t.mac = s.mac ∧ t.cmp = s.cmp ∧ t.err = s.err ∧ t.data = s.data ∧
      t.datb = s.datb) ∧
  (∀ m : List Byte, (Reference.padded m).length = 64 * ((m.length + 9 + 63) / 64))

/-- Rules R180, R182–R184: HMAC.KEY appends DATA[0..N−1] to the key received, and HMAC.KEYEND leaves the
normalized key K0 of the whole key in KEY, with the inner pad absorbed. -/
def Obligations.KeyIsNormalized : Prop :=
  (∀ (n : Byte) (k : List Byte) (s : State), s.err.locked = false → n.toNat ≤ 64 →
    s.KeyReceived k → ∃ t, exec (.hmacKey n) s = .next t ∧
      t.KeyReceived (k ++ s.data.toList.take n.toNat) ∧ t.err = s.err ∧ t.cmp = s.cmp ∧
      t.data = s.data ∧ t.datb = s.datb) ∧
  (∀ (k : List Byte) (s : State), s.err.locked = false → s.KeyReceived k →
    ∃ t, exec .hmacKeyend s = .next t ∧ t.MessageAbsorbed k [] ∧ t.mac.klen = s.mac.klen ∧
      t.err = s.err ∧ t.cmp = s.cmp ∧ t.data = s.data ∧ t.datb = s.datb)

/-- Rule R187: HMAC.FINAL leaves DOUT = HMAC(k, m) of rule R180 for the key and message received, and
destroys the key. -/
def Obligations.HmacFinalPublishesHmac : Prop :=
  ∀ (k m : List Byte) (s : State), s.err.locked = false → s.MessageAbsorbed k m →
    ∃ t, exec .hmacFinal s = .next t ∧ t.dout.toList = Reference.hmac k m ∧ t.hs = .hmacDone ∧
      t.mac.keyErased ∧ t.dp.cleared ∧ t.cmp = s.cmp ∧ t.err = s.err ∧ t.data = s.data ∧
      t.datb = s.datb

/-- Rules R230 and R234: with the OR accumulation, CMP.BEGIN at equal lengths, feeds and CMP.END give
EQ = 1 exactly when the strings fed are equal; at different lengths CMP.BEGIN and CMP.END give
EQ = 0. -/
def Obligations.ComparisonVerdictIsEquality : Prop :=
  (∀ s : State, s.err.locked = false → s.cmp.cs ≠ .active → s.cmp.lenA = s.cmp.lenB →
    ∃ t, exec .cmpBegin s = .next t ∧ t.Compared s.cmp.lenA.toNat [] [] ∧ t.err = s.err) ∧
  (∀ (total : Nat) (a b : List Byte) (n : Byte) (s : State), s.err.locked = false →
    s.Compared total a b → n.toNat ≤ 64 → a.length + n.toNat ≤ total →
    ∃ t, exec (.cmpFeed n) s = .next t ∧
      t.Compared total (a ++ s.data.toList.take n.toNat) (b ++ s.datb.toList.take n.toNat) ∧
      t.err = s.err) ∧
  (∀ (a b : List Byte) (s : State), s.err.locked = false → s.Compared a.length a b →
    ∃ t, exec .cmpEnd s = .next t ∧ t.cmp.cs = .done ∧ t.cmp.eq = decide (a = b) ∧ t.err = s.err) ∧
  (∀ s : State, s.err.locked = false → s.cmp.cs ≠ .active → s.cmp.lenA ≠ s.cmp.lenB →
    ∃ t, exec .cmpBegin s = .next t ∧ exec .cmpEnd t = .next t ∧ t.cmp.cs = .done ∧
      t.cmp.eq = false)

/-! ## The host's use of the block -/

/-- Rule R211: the host procedure HASH(m), through the bus alone, returns SHA-256 of m, from any
unlocked state with no digest computation in progress. Rule R220: from a state with one in progress, or
locked by any error but UNSUPPORTED_ALG, it is an internal failure and the block has been reset; locked
by UNSUPPORTED_ALG, the configuration error propagates and the block stays locked. A procedure's
accesses stand alone, nothing comes between them and no response is recorded (log entries 12 and 16);
the model's choices in this are SOFT_RESET at once (log entry 12), a lock that stays (log entry 20),
pieces of 64 bytes (log entry 21), and that a reset sets the count of compressions to 0 and leaves the
port and the responses (log entries 3 and 10). -/
def Obligations.HostHashIsSha256 : Prop :=
  (∀ (m : List Byte) (s : State), s.err.locked = false → s.hs.quiescent = true →
    (Boundary.hash m s).2 = .ok (Reference.sha256 m) ∧
    (Boundary.hash m s).1.err.locked = false ∧ (Boundary.hash m s).1.hs = .shaDone ∧
    (Boundary.hash m s).1.cmp = s.cmp) ∧
  (∀ (m : List Byte) (s : State),
    ((s.err.locked = true ∧ s.err.code ≠ .unsupportedAlg) ∨
      (s.err.locked = false ∧ s.hs.quiescent = false)) →
    Boundary.hash m s =
      ({ State.reset with port := s.port, responses := s.responses }, .error .internal)) ∧
  (∀ (m : List Byte) (s : State), s.err.locked = true → s.err.code = .unsupportedAlg →
    (Boundary.hash m s).2 = .error .unsupportedAlgorithm ∧ (Boundary.hash m s).1.err = s.err)

/-- Rules R212 and R187: the host procedure HMAC(key, chunks) returns HMAC of the key and the
concatenated chunks, however they are split. Rules R212 and R220: a context created with another
algorithm than 0x01 is the configuration error, and it propagates; so it does on a block already locked
by UNSUPPORTED_ALG; from a state with a digest in progress, or locked by any other error, HMAC is an
internal failure and the block has been reset. The model's choices in this: accesses that stand alone
and SOFT_RESET at once (log entries 12 and 16), a lock that stays (log entry 20), pieces of 64 bytes
(log entry 21), and that a reset sets the count of compressions to 0 and leaves the port and the
responses (log entries 3 and 10). -/
def Obligations.HostHmacIsHmac : Prop :=
  (∀ (key : List Byte) (chunks : List (List Byte)) (s : State), s.err.locked = false →
    s.hs.quiescent = true →
    (Boundary.hmac key chunks s).2 = .ok (Reference.hmac key chunks.flatten) ∧
    (Boundary.hmac key chunks s).1.err.locked = false ∧
    (Boundary.hmac key chunks s).1.hs = .hmacDone ∧ (Boundary.hmac key chunks s).1.cmp = s.cmp) ∧
  (∀ (alg : Byte) (key : List Byte) (chunks : List (List Byte)) (s : State),
    s.err.locked = false → alg ≠ 0x01 → Boundary.hmacWith alg key chunks s =
      ({ s with err := ⟨true, .unsupportedAlg, enc 0x10 0 alg⟩ }, .error .unsupportedAlgorithm)) ∧
  (∀ (alg : Byte) (key : List Byte) (chunks : List (List Byte)) (s : State),
    s.err.locked = true → s.err.code = .unsupportedAlg →
    Boundary.hmacWith alg key chunks s = (s, .error .unsupportedAlgorithm)) ∧
  (∀ (key : List Byte) (chunks : List (List Byte)) (s : State),
    ((s.err.locked = true ∧ s.err.code ≠ .unsupportedAlg) ∨
      (s.err.locked = false ∧ s.hs.quiescent = false)) →
    Boundary.hmac key chunks s =
      ({ State.reset with port := s.port, responses := s.responses }, .error .internal))

/-- Rules R213 and R234: the host procedure CT_EQUAL decides equality of any two byte strings, and leaves
the hash unit alone; strings of fewer than 2^32 bytes take one comparison, and that longer ones take
several is the model's choice (decision D17, log entry 19).
Rule R220: from a state with a comparison active, or locked by any error but UNSUPPORTED_ALG, it is an
internal failure and the block has been reset; locked by UNSUPPORTED_ALG, the configuration error
propagates. The model's choices in this: accesses that stand alone and SOFT_RESET at once (log entries
12 and 16), a lock that stays (log entry 20), and that a reset sets the count of compressions to 0 and
leaves the port and the responses (log entries 3 and 10). -/
def Obligations.HostComparisonIsEquality : Prop :=
  (∀ (a b : List Byte) (s : State), s.err.locked = false → s.cmp.cs ≠ .active →
    (Boundary.ctEqual a b s).2 = .ok (decide (a = b)) ∧
    (Boundary.ctEqual a b s).1.err.locked = false ∧ (Boundary.ctEqual a b s).1.hs = s.hs ∧
    (Boundary.ctEqual a b s).1.dp = s.dp ∧ (Boundary.ctEqual a b s).1.mac = s.mac ∧
    (Boundary.ctEqual a b s).1.dout = s.dout) ∧
  (∀ (a b : List Byte) (s : State), a.length < 2 ^ 32 → b.length < 2 ^ 32 →
    Boundary.ctEqual a b s = Boundary.compareOnce a b s) ∧
  (∀ (a b : List Byte) (s : State),
    ((s.err.locked = true ∧ s.err.code ≠ .unsupportedAlg) ∨
      (s.err.locked = false ∧ s.cmp.cs = .active)) →
    Boundary.ctEqual a b s =
      ({ State.reset with port := s.port, responses := s.responses }, .error .internal)) ∧
  (∀ (a b : List Byte) (s : State), s.err.locked = true → s.err.code = .unsupportedAlg →
    (Boundary.ctEqual a b s).2 = .error .unsupportedAlgorithm ∧
    (Boundary.ctEqual a b s).1.err = s.err)

/-- Rule R221 item 1: for a non-empty secret s and any message m, unsign(sign(m, s), s) = m. The two
procedures' accesses stand alone, and nothing comes between them (log entries 12 and 16); a signed value
of 2^32 bytes or more is compared in parts (log entry 19). -/
def Obligations.SignThenUnsignReturnsTheMessage : Prop :=
  ∀ (message secret : List Char) (s : State), s.err.locked = false → s.hs.quiescent = true →
    s.cmp.cs ≠ .active → secret ≠ [] →
    ∃ signed, (Boundary.sign message secret s).2 = .ok signed ∧
      (Boundary.unsign signed secret (Boundary.sign message secret s).1).2 = .ok (some message)

/-- Rules R218 and R221 items 2 and 4: from every state, unsign accepts a value only if it is exactly
what sign makes of the part before its last '.', and with the empty secret it is null for every value,
on any block that is not locked by UNSUPPORTED_ALG (where log entry 20 has the error propagate);
on an unlocked block with nothing in progress it is null for every other value, so any change after the
last '.' is rejected. These hold for every input. Rules R217, R218 and R220: with no '.', unsign is
null; where HMAC is an internal failure, sign returns the message and unsign null, never a failure;
on a block locked by UNSUPPORTED_ALG the configuration error propagates from both. The model's choices
in this: accesses that stand alone and SOFT_RESET at once after an internal failure (log entries 12 and
16), a comparison in parts of values of 2^32 bytes or more (log entry 19), a lock that stays (log entry
20), and that a reset sets the count of compressions to 0 and leaves
the port and the responses (log entries 3 and 10). -/
def Obligations.UnsignAcceptsOnlySignedValues : Prop :=
  (∀ (sv secret message : List Char) (s : State),
    (Boundary.unsign sv secret s).2 = .ok (some message) →
    Boundary.beforeLastDot sv = some message ∧ (Boundary.sign message secret s).2 = .ok sv ∧
      secret ≠ []) ∧
  (∀ (sv : List Char) (s : State), (s.err.locked = true → s.err.code ≠ .unsupportedAlg) →
    (Boundary.unsign sv [] s).2 = .ok none) ∧
  (∀ (sv secret message : List Char) (s : State), s.err.locked = false → s.hs.quiescent = true →
    s.cmp.cs ≠ .active → secret ≠ [] → Boundary.beforeLastDot sv = some message →
    ∃ signed, (Boundary.sign message secret s).2 = .ok signed ∧
      (Boundary.unsign sv secret s).2 = .ok (if signed = sv then some message else none)) ∧
  (∀ (sv secret : List Char) (s : State), '.' ∉ sv → Boundary.unsign sv secret s = (s, .ok none)) ∧
  (∀ (message secret : List Char) (s : State), secret ≠ [] →
    ((s.err.locked = true ∧ s.err.code ≠ .unsupportedAlg) ∨
      (s.err.locked = false ∧ s.hs.quiescent = false)) →
    Boundary.sign message secret s =
      ({ State.reset with port := s.port, responses := s.responses }, .ok message) ∧
    ∀ sv, Boundary.beforeLastDot sv = some message →
      (Boundary.unsign sv secret s).2 = .ok none) ∧
  (∀ (message secret : List Char) (s : State), secret ≠ [] → s.err.locked = true →
    s.err.code = .unsupportedAlg →
    Boundary.sign message secret s = (s, .error .unsupportedAlgorithm) ∧
    ∀ sv, Boundary.beforeLastDot sv = some message →
      Boundary.unsign sv secret s = (s, .error .unsupportedAlgorithm))

/-- Rule R221 items 2 and 3: hex is 64 characters, base64 44, the stripped signature 43 with no '.' and
no '=', a signed value len(message) + 44; sign with the empty secret returns the message. -/
def Obligations.SignatureShapes : Prop :=
  (∀ d : List Byte, d.length = 32 →
    (Boundary.hex d).length = 64 ∧ (Boundary.binary d).length = 32 ∧
    (Boundary.base64 d).length = 44 ∧ (Boundary.base64 d).getLast? = some '=' ∧
    (Boundary.stripPadding (Boundary.base64 d)).length = 43 ∧
    '.' ∉ Boundary.stripPadding (Boundary.base64 d) ∧
    '=' ∉ Boundary.stripPadding (Boundary.base64 d) ∧
    ∀ message, (Boundary.signedValue message d).length = message.length + 44) ∧
  (∀ (message : List Char) (s : State), Boundary.sign message [] s = (s, .ok message))
end

