-- ==== Sys2Proof/Laws/State.lean ====
section
/-!
SUPPORT. One lemma per field per update of State (each true by rfl), so that no proof unfolds a
record update; then the same for error entry, the block's reset and the responses.
-/

namespace Sys2Proof.Machine

/-! ### withDp -/

@[simp] theorem State.withDp_dp (s : State) (x : Datapath) : (s.withDp x).dp = x := rfl
@[simp] theorem State.withDp_mac (s : State) (x : Datapath) : (s.withDp x).mac = s.mac := rfl
@[simp] theorem State.withDp_cmp (s : State) (x : Datapath) : (s.withDp x).cmp = s.cmp := rfl
@[simp] theorem State.withDp_err (s : State) (x : Datapath) : (s.withDp x).err = s.err := rfl
@[simp] theorem State.withDp_hs (s : State) (x : Datapath) : (s.withDp x).hs = s.hs := rfl
@[simp] theorem State.withDp_dout (s : State) (x : Datapath) : (s.withDp x).dout = s.dout := rfl
@[simp] theorem State.withDp_data (s : State) (x : Datapath) : (s.withDp x).data = s.data := rfl
@[simp] theorem State.withDp_datb (s : State) (x : Datapath) : (s.withDp x).datb = s.datb := rfl
@[simp] theorem State.withDp_port (s : State) (x : Datapath) : (s.withDp x).port = s.port := rfl
@[simp] theorem State.withDp_responses (s : State) (x : Datapath) : (s.withDp x).responses = s.responses := rfl

/-! ### withMac -/

@[simp] theorem State.withMac_dp (s : State) (x : MacRegs) : (s.withMac x).dp = s.dp := rfl
@[simp] theorem State.withMac_mac (s : State) (x : MacRegs) : (s.withMac x).mac = x := rfl
@[simp] theorem State.withMac_cmp (s : State) (x : MacRegs) : (s.withMac x).cmp = s.cmp := rfl
@[simp] theorem State.withMac_err (s : State) (x : MacRegs) : (s.withMac x).err = s.err := rfl
@[simp] theorem State.withMac_hs (s : State) (x : MacRegs) : (s.withMac x).hs = s.hs := rfl
@[simp] theorem State.withMac_dout (s : State) (x : MacRegs) : (s.withMac x).dout = s.dout := rfl
@[simp] theorem State.withMac_data (s : State) (x : MacRegs) : (s.withMac x).data = s.data := rfl
@[simp] theorem State.withMac_datb (s : State) (x : MacRegs) : (s.withMac x).datb = s.datb := rfl
@[simp] theorem State.withMac_port (s : State) (x : MacRegs) : (s.withMac x).port = s.port := rfl
@[simp] theorem State.withMac_responses (s : State) (x : MacRegs) : (s.withMac x).responses = s.responses := rfl

/-! ### withCmp -/

@[simp] theorem State.withCmp_dp (s : State) (x : CmpRegs) : (s.withCmp x).dp = s.dp := rfl
@[simp] theorem State.withCmp_mac (s : State) (x : CmpRegs) : (s.withCmp x).mac = s.mac := rfl
@[simp] theorem State.withCmp_cmp (s : State) (x : CmpRegs) : (s.withCmp x).cmp = x := rfl
@[simp] theorem State.withCmp_err (s : State) (x : CmpRegs) : (s.withCmp x).err = s.err := rfl
@[simp] theorem State.withCmp_hs (s : State) (x : CmpRegs) : (s.withCmp x).hs = s.hs := rfl
@[simp] theorem State.withCmp_dout (s : State) (x : CmpRegs) : (s.withCmp x).dout = s.dout := rfl
@[simp] theorem State.withCmp_data (s : State) (x : CmpRegs) : (s.withCmp x).data = s.data := rfl
@[simp] theorem State.withCmp_datb (s : State) (x : CmpRegs) : (s.withCmp x).datb = s.datb := rfl
@[simp] theorem State.withCmp_port (s : State) (x : CmpRegs) : (s.withCmp x).port = s.port := rfl
@[simp] theorem State.withCmp_responses (s : State) (x : CmpRegs) : (s.withCmp x).responses = s.responses := rfl

/-! ### withErr -/

@[simp] theorem State.withErr_dp (s : State) (x : ErrRegs) : (s.withErr x).dp = s.dp := rfl
@[simp] theorem State.withErr_mac (s : State) (x : ErrRegs) : (s.withErr x).mac = s.mac := rfl
@[simp] theorem State.withErr_cmp (s : State) (x : ErrRegs) : (s.withErr x).cmp = s.cmp := rfl
@[simp] theorem State.withErr_err (s : State) (x : ErrRegs) : (s.withErr x).err = x := rfl
@[simp] theorem State.withErr_hs (s : State) (x : ErrRegs) : (s.withErr x).hs = s.hs := rfl
@[simp] theorem State.withErr_dout (s : State) (x : ErrRegs) : (s.withErr x).dout = s.dout := rfl
@[simp] theorem State.withErr_data (s : State) (x : ErrRegs) : (s.withErr x).data = s.data := rfl
@[simp] theorem State.withErr_datb (s : State) (x : ErrRegs) : (s.withErr x).datb = s.datb := rfl
@[simp] theorem State.withErr_port (s : State) (x : ErrRegs) : (s.withErr x).port = s.port := rfl
@[simp] theorem State.withErr_responses (s : State) (x : ErrRegs) : (s.withErr x).responses = s.responses := rfl

/-! ### withHs -/

@[simp] theorem State.withHs_dp (s : State) (x : HS) : (s.withHs x).dp = s.dp := rfl
@[simp] theorem State.withHs_mac (s : State) (x : HS) : (s.withHs x).mac = s.mac := rfl
@[simp] theorem State.withHs_cmp (s : State) (x : HS) : (s.withHs x).cmp = s.cmp := rfl
@[simp] theorem State.withHs_err (s : State) (x : HS) : (s.withHs x).err = s.err := rfl
@[simp] theorem State.withHs_hs (s : State) (x : HS) : (s.withHs x).hs = x := rfl
@[simp] theorem State.withHs_dout (s : State) (x : HS) : (s.withHs x).dout = s.dout := rfl
@[simp] theorem State.withHs_data (s : State) (x : HS) : (s.withHs x).data = s.data := rfl
@[simp] theorem State.withHs_datb (s : State) (x : HS) : (s.withHs x).datb = s.datb := rfl
@[simp] theorem State.withHs_port (s : State) (x : HS) : (s.withHs x).port = s.port := rfl
@[simp] theorem State.withHs_responses (s : State) (x : HS) : (s.withHs x).responses = s.responses := rfl

/-! ### withDout -/

@[simp] theorem State.withDout_dp (s : State) (x : Vector Byte 32) : (s.withDout x).dp = s.dp := rfl
@[simp] theorem State.withDout_mac (s : State) (x : Vector Byte 32) : (s.withDout x).mac = s.mac := rfl
@[simp] theorem State.withDout_cmp (s : State) (x : Vector Byte 32) : (s.withDout x).cmp = s.cmp := rfl
@[simp] theorem State.withDout_err (s : State) (x : Vector Byte 32) : (s.withDout x).err = s.err := rfl
@[simp] theorem State.withDout_hs (s : State) (x : Vector Byte 32) : (s.withDout x).hs = s.hs := rfl
@[simp] theorem State.withDout_dout (s : State) (x : Vector Byte 32) : (s.withDout x).dout = x := rfl
@[simp] theorem State.withDout_data (s : State) (x : Vector Byte 32) : (s.withDout x).data = s.data := rfl
@[simp] theorem State.withDout_datb (s : State) (x : Vector Byte 32) : (s.withDout x).datb = s.datb := rfl
@[simp] theorem State.withDout_port (s : State) (x : Vector Byte 32) : (s.withDout x).port = s.port := rfl
@[simp] theorem State.withDout_responses (s : State) (x : Vector Byte 32) : (s.withDout x).responses = s.responses := rfl

/-! ### withData -/

@[simp] theorem State.withData_dp (s : State) (x : Vector Byte 64) : (s.withData x).dp = s.dp := rfl
@[simp] theorem State.withData_mac (s : State) (x : Vector Byte 64) : (s.withData x).mac = s.mac := rfl
@[simp] theorem State.withData_cmp (s : State) (x : Vector Byte 64) : (s.withData x).cmp = s.cmp := rfl
@[simp] theorem State.withData_err (s : State) (x : Vector Byte 64) : (s.withData x).err = s.err := rfl
@[simp] theorem State.withData_hs (s : State) (x : Vector Byte 64) : (s.withData x).hs = s.hs := rfl
@[simp] theorem State.withData_dout (s : State) (x : Vector Byte 64) : (s.withData x).dout = s.dout := rfl
@[simp] theorem State.withData_data (s : State) (x : Vector Byte 64) : (s.withData x).data = x := rfl
@[simp] theorem State.withData_datb (s : State) (x : Vector Byte 64) : (s.withData x).datb = s.datb := rfl
@[simp] theorem State.withData_port (s : State) (x : Vector Byte 64) : (s.withData x).port = s.port := rfl
@[simp] theorem State.withData_responses (s : State) (x : Vector Byte 64) : (s.withData x).responses = s.responses := rfl

/-! ### withDatb -/

@[simp] theorem State.withDatb_dp (s : State) (x : Vector Byte 64) : (s.withDatb x).dp = s.dp := rfl
@[simp] theorem State.withDatb_mac (s : State) (x : Vector Byte 64) : (s.withDatb x).mac = s.mac := rfl
@[simp] theorem State.withDatb_cmp (s : State) (x : Vector Byte 64) : (s.withDatb x).cmp = s.cmp := rfl
@[simp] theorem State.withDatb_err (s : State) (x : Vector Byte 64) : (s.withDatb x).err = s.err := rfl
@[simp] theorem State.withDatb_hs (s : State) (x : Vector Byte 64) : (s.withDatb x).hs = s.hs := rfl
@[simp] theorem State.withDatb_dout (s : State) (x : Vector Byte 64) : (s.withDatb x).dout = s.dout := rfl
@[simp] theorem State.withDatb_data (s : State) (x : Vector Byte 64) : (s.withDatb x).data = s.data := rfl
@[simp] theorem State.withDatb_datb (s : State) (x : Vector Byte 64) : (s.withDatb x).datb = x := rfl
@[simp] theorem State.withDatb_port (s : State) (x : Vector Byte 64) : (s.withDatb x).port = s.port := rfl
@[simp] theorem State.withDatb_responses (s : State) (x : Vector Byte 64) : (s.withDatb x).responses = s.responses := rfl

/-! ### withPort -/

@[simp] theorem State.withPort_dp (s : State) (x : List BusEvent) : (s.withPort x).dp = s.dp := rfl
@[simp] theorem State.withPort_mac (s : State) (x : List BusEvent) : (s.withPort x).mac = s.mac := rfl
@[simp] theorem State.withPort_cmp (s : State) (x : List BusEvent) : (s.withPort x).cmp = s.cmp := rfl
@[simp] theorem State.withPort_err (s : State) (x : List BusEvent) : (s.withPort x).err = s.err := rfl
@[simp] theorem State.withPort_hs (s : State) (x : List BusEvent) : (s.withPort x).hs = s.hs := rfl
@[simp] theorem State.withPort_dout (s : State) (x : List BusEvent) : (s.withPort x).dout = s.dout := rfl
@[simp] theorem State.withPort_data (s : State) (x : List BusEvent) : (s.withPort x).data = s.data := rfl
@[simp] theorem State.withPort_datb (s : State) (x : List BusEvent) : (s.withPort x).datb = s.datb := rfl
@[simp] theorem State.withPort_port (s : State) (x : List BusEvent) : (s.withPort x).port = x := rfl
@[simp] theorem State.withPort_responses (s : State) (x : List BusEvent) : (s.withPort x).responses = s.responses := rfl

/-! ### withResponses -/

@[simp] theorem State.withResponses_dp (s : State) (x : List Response) : (s.withResponses x).dp = s.dp := rfl
@[simp] theorem State.withResponses_mac (s : State) (x : List Response) : (s.withResponses x).mac = s.mac := rfl
@[simp] theorem State.withResponses_cmp (s : State) (x : List Response) : (s.withResponses x).cmp = s.cmp := rfl
@[simp] theorem State.withResponses_err (s : State) (x : List Response) : (s.withResponses x).err = s.err := rfl
@[simp] theorem State.withResponses_hs (s : State) (x : List Response) : (s.withResponses x).hs = s.hs := rfl
@[simp] theorem State.withResponses_dout (s : State) (x : List Response) : (s.withResponses x).dout = s.dout := rfl
@[simp] theorem State.withResponses_data (s : State) (x : List Response) : (s.withResponses x).data = s.data := rfl
@[simp] theorem State.withResponses_datb (s : State) (x : List Response) : (s.withResponses x).datb = s.datb := rfl
@[simp] theorem State.withResponses_port (s : State) (x : List Response) : (s.withResponses x).port = s.port := rfl
@[simp] theorem State.withResponses_responses (s : State) (x : List Response) : (s.withResponses x).responses = x := rfl

/-! ### Error entry (rule R263) -/

@[simp] theorem raiseErr_dp (code : ErrCode) (c : Word) (s : State) : (raiseErr code c s).dp = s.dp := rfl
@[simp] theorem raiseErr_mac (code : ErrCode) (c : Word) (s : State) : (raiseErr code c s).mac = s.mac := rfl
@[simp] theorem raiseErr_cmp (code : ErrCode) (c : Word) (s : State) : (raiseErr code c s).cmp = s.cmp := rfl
@[simp] theorem raiseErr_err (code : ErrCode) (c : Word) (s : State) : (raiseErr code c s).err = ⟨true, code, c⟩ := rfl
@[simp] theorem raiseErr_hs (code : ErrCode) (c : Word) (s : State) : (raiseErr code c s).hs = s.hs := rfl
@[simp] theorem raiseErr_dout (code : ErrCode) (c : Word) (s : State) : (raiseErr code c s).dout = s.dout := rfl
@[simp] theorem raiseErr_data (code : ErrCode) (c : Word) (s : State) : (raiseErr code c s).data = s.data := rfl
@[simp] theorem raiseErr_datb (code : ErrCode) (c : Word) (s : State) : (raiseErr code c s).datb = s.datb := rfl
@[simp] theorem raiseErr_port (code : ErrCode) (c : Word) (s : State) : (raiseErr code c s).port = s.port := rfl
@[simp] theorem raiseErr_responses (code : ErrCode) (c : Word) (s : State) : (raiseErr code c s).responses = s.responses := rfl

/-! ### The block's reset (rule R290) -/

@[simp] theorem resetBlock_dp (s : State) : (resetBlock s).dp = .reset := rfl
@[simp] theorem resetBlock_mac (s : State) : (resetBlock s).mac = .reset := rfl
@[simp] theorem resetBlock_cmp (s : State) : (resetBlock s).cmp = .reset := rfl
@[simp] theorem resetBlock_err (s : State) : (resetBlock s).err = .reset := rfl
@[simp] theorem resetBlock_hs (s : State) : (resetBlock s).hs = .idle := rfl
@[simp] theorem resetBlock_dout (s : State) : (resetBlock s).dout = Vector.replicate 32 0 := rfl
@[simp] theorem resetBlock_data (s : State) : (resetBlock s).data = Vector.replicate 64 0 := rfl
@[simp] theorem resetBlock_datb (s : State) : (resetBlock s).datb = Vector.replicate 64 0 := rfl
@[simp] theorem resetBlock_port (s : State) : (resetBlock s).port = s.port := rfl
@[simp] theorem resetBlock_responses (s : State) : (resetBlock s).responses = s.responses := rfl

/-! ### A response (rules R62, R266) -/

@[simp] theorem respond_dp (r : Response) (s : State) : (respond r s).dp = s.dp := rfl
@[simp] theorem respond_mac (r : Response) (s : State) : (respond r s).mac = s.mac := rfl
@[simp] theorem respond_cmp (r : Response) (s : State) : (respond r s).cmp = s.cmp := rfl
@[simp] theorem respond_err (r : Response) (s : State) : (respond r s).err = s.err := rfl
@[simp] theorem respond_hs (r : Response) (s : State) : (respond r s).hs = s.hs := rfl
@[simp] theorem respond_dout (r : Response) (s : State) : (respond r s).dout = s.dout := rfl
@[simp] theorem respond_data (r : Response) (s : State) : (respond r s).data = s.data := rfl
@[simp] theorem respond_datb (r : Response) (s : State) : (respond r s).datb = s.datb := rfl
@[simp] theorem respond_port (r : Response) (s : State) : (respond r s).port = s.port := rfl
@[simp] theorem respond_responses (r : Response) (s : State) : (respond r s).responses = s.responses ++ [r] := rfl

end Sys2Proof.Machine
end

