-- ==== Sys2Proof/Laws/Ops.lean ====
section
/-!
SUPPORT. What the shared operations of the commands can do: the frame of a command, the key byte
primitive, the comparison's accumulation, and the service of a bus event.
-/

namespace Sys2Proof.Machine

/-! ### The frame of a command (rules R96, R262–R264) -/

@[simp] theorem firstFailing_nil : firstFailing [] = none := rfl

@[simp] theorem firstFailing_cons (code : ErrCode) (fails : Bool) (rest : List (ErrCode × Bool)) :
    firstFailing ((code, fails) :: rest) = if fails then some code else firstFailing rest := rfl

@[simp] theorem badCount_eq (n : Byte) : badCount n = (.badLen, decide (64 < n.toNat)) := rfl

@[simp] theorem badSequence_eq (legal : Bool) : badSequence legal = (.sequence, !legal) := rfl

/-- The quiescent states (rule R32). -/
theorem HS.quiescent_iff (h : HS) :
    h.quiescent = true ↔ h = .idle ∨ h = .shaDone ∨ h = .hmacDone := by
  cases h <;> simp [HS.quiescent]

/-- The states in which a key is received (rules R183, R184). -/
theorem HS.keying_iff (h : HS) : h.keying = true ↔ h = .hkey ∨ h = .hkeyh := by
  cases h <;> simp [HS.keying]

/-- Everything a command can do: nothing while the block is locked; the error entry of the first
failing check; its effect. -/
theorem runCommand_cases (i : Instr) (checks : List (ErrCode × Bool)) (effect s : State) :
    (s.err.locked = true ∧ runCommand i checks effect s = .next s) ∨
    (s.err.locked = false ∧ ∃ code, firstFailing checks = some code ∧
      runCommand i checks effect s = .next (raiseErr code (encode i) s)) ∨
    (s.err.locked = false ∧ firstFailing checks = none ∧
      runCommand i checks effect s = .next effect) := by
  unfold runCommand
  cases hl : s.err.locked with
  | true => exact .inl ⟨rfl, by simp⟩
  | false =>
    cases hf : firstFailing checks with
    | none => exact .inr (.inr ⟨rfl, rfl, by simp⟩)
    | some code => exact .inr (.inl ⟨rfl, code, rfl, by simp⟩)

theorem runCommand_locked (i : Instr) (checks : List (ErrCode × Bool)) (effect s : State)
    (h : s.err.locked = true) : runCommand i checks effect s = .next s := by
  simp [runCommand, h]

theorem runCommand_fails (i : Instr) (checks : List (ErrCode × Bool)) (effect s : State)
    (code : ErrCode) (h : s.err.locked = false) (hc : firstFailing checks = some code) :
    runCommand i checks effect s = .next (raiseErr code (encode i) s) := by
  simp [runCommand, h, hc]

theorem runCommand_runs (i : Instr) (checks : List (ErrCode × Bool)) (effect s : State)
    (h : s.err.locked = false) (hc : firstFailing checks = none) :
    runCommand i checks effect s = .next effect := by
  simp [runCommand, h, hc]

/-! ### key_byte (rule R182) -/

/-- Everything key_byte can do. -/
theorem keyByte_cases (b : Byte) (s : State) :
    (s.hs = .hkey ∧ s.mac.klen.toNat < 64 ∧ keyByte b s = s.withMac { s.mac with
        key := s.mac.key.setIfInBounds s.mac.klen.toNat b, klen := s.mac.klen + 1 }) ∨
    (s.hs = .hkey ∧ 64 ≤ s.mac.klen.toNat ∧ keyByte b s =
      ((s.withDp ((s.dp.coreInit.absorbAll s.mac.key.toList).absorb b)).withMac
        { s.mac with key := Vector.replicate 64 0, klen := 65 }).withHs .hkeyh) ∨
    (s.hs ≠ .hkey ∧ keyByte b s = s.withDp (s.dp.absorb b)) := by
  unfold keyByte
  by_cases h : s.hs = .hkey
  · by_cases hk : s.mac.klen.toNat < 64
    · exact .inl ⟨h, hk, by simp [h, hk]⟩
    · exact .inr (.inl ⟨h, by omega, by simp [h, hk]⟩)
  · exact .inr (.inr ⟨h, by simp [h]⟩)

@[simp] theorem keyBytes_nil (s : State) : keyBytes [] s = s := rfl

@[simp] theorem keyBytes_cons (b : Byte) (bs : List Byte) (s : State) :
    keyBytes (b :: bs) s = keyBytes bs (keyByte b s) := rfl

theorem keyBytes_append (xs ys : List Byte) (s : State) :
    keyBytes (xs ++ ys) s = keyBytes ys (keyBytes xs s) := by
  simp [keyBytes, List.foldl_append]

/-- key_byte touches the datapath, KEY, KLEN and HS only. -/
theorem keyByte_frame (b : Byte) (s : State) :
    (keyByte b s).cmp = s.cmp ∧ (keyByte b s).err = s.err ∧ (keyByte b s).dout = s.dout ∧
      (keyByte b s).data = s.data ∧ (keyByte b s).datb = s.datb ∧ (keyByte b s).port = s.port ∧
      (keyByte b s).responses = s.responses ∧ (keyByte b s).mac.idig = s.mac.idig := by
  obtain ⟨-, -, h⟩ | ⟨-, -, h⟩ | ⟨-, h⟩ := keyByte_cases b s <;> rw [h] <;> simp

theorem keyBytes_frame (bs : List Byte) (s : State) :
    (keyBytes bs s).cmp = s.cmp ∧ (keyBytes bs s).err = s.err ∧ (keyBytes bs s).dout = s.dout ∧
      (keyBytes bs s).data = s.data ∧ (keyBytes bs s).datb = s.datb ∧
      (keyBytes bs s).port = s.port ∧ (keyBytes bs s).responses = s.responses ∧
      (keyBytes bs s).mac.idig = s.mac.idig := by
  induction bs generalizing s with
  | nil => simp
  | cons b bs ih =>
    have h1 := keyByte_frame b s
    have h2 := ih (keyByte b s)
    simp_all

/-! ### The comparison's accumulation (rules R230, R232) -/

@[simp] theorem accumulate_nil (acc : Byte) : accumulate acc [] = acc := rfl

@[simp] theorem accumulate_cons (acc : Byte) (p : Byte × Byte) (ps : List (Byte × Byte)) :
    accumulate acc (p :: ps) = accumulate (acc ||| (p.1 ^^^ p.2)) ps := rfl

theorem accumulate_append (acc : Byte) (xs ys : List (Byte × Byte)) :
    accumulate acc (xs ++ ys) = accumulate (accumulate acc xs) ys := by
  simp [accumulate, List.foldl_append]

/-! ### Serving a bus event (rules R61, R62, R69, R266) -/

@[simp] theorem answer_next (r : Response) (s : State) : answer r (.next s) = .next (respond r s) := rfl

theorem serve_read_accepted (off : Offset) (size : Nat) (s : State) (h : accepted off size = true) :
    serve (.read off size) s = .next (respond (.readData (regRead off s)) s) := by
  simp [serve, h, busRead]

theorem serve_write_accepted (off : Offset) (size : Nat) (v : Word) (s : State)
    (h : accepted off size = true) :
    serve (.write off size v) s = answer .written (busWrite off v s) := by
  simp [serve, h]

theorem busWrite_register (off : Offset) (v : Word) (s : State) (h : off ≠ offCmd) :
    busWrite off v s = .next (regWrite off v s) := by
  simp [busWrite, h]

theorem busWrite_command (c : Word) (s : State) : busWrite offCmd c s = serveCommand c s := rfl

theorem step_nil (s : State) (h : s.port = []) : step s = .next s := by
  simp [step, serveNext, h]

theorem step_cons (s : State) (e : BusEvent) (rest : List BusEvent) (h : s.port = e :: rest) :
    step s = serve e (s.withPort rest) := by
  simp [step, serveNext, h]

end Sys2Proof.Machine
end

