-- ==== Sys2Proof/Laws/Boundary.lean ====
section
/-!
SUPPORT. What the host's primitives can do: a command word on an unlocked and on a locked block, the
failure a check reports, and how a failure goes through a procedure.
-/

namespace Sys2Proof.Machine.Boundary

/-- SOFT_RESET through the bus resets the block from every state (rule R251). -/
@[simp] theorem command_softReset (s : State) : command .softReset s = resetBlock s := by
  have hd : decode 255#32 = .ok .softReset := by decide
  cases h : s.err.locked <;>
    simp [command, write, busWrite, serveCommand, h, hd, exec, execSoftReset, encode, enc]

/-- On a locked block a command word other than SOFT_RESET's changes nothing (rule R264). -/
theorem command_locked {i : Instr} {s : State} (h : s.err.locked = true)
    (hi : encode i ≠ 0x000000FF) : command i s = s := by
  have hw : ¬ encode i = 255#32 := hi
  simp [command, write, busWrite, serveCommand, h, hw]

/-- What `check` sees is ERR and whether ERRCODE is UNSUPPORTED_ALG (rule R220). -/
theorem failureOf_eq (s : State) : failureOf s =
    if s.err.locked then
      if s.err.code = .unsupportedAlg then some .unsupportedAlgorithm else some .internal
    else none := by
  have hbit : errorBit s = s.err.locked := by
    cases h : s.err.locked <;> cases hs : s.hs <;> cases hc : s.cmp.cs <;> cases he : s.cmp.eq <;>
      simp [errorBit, busRead, regRead, offId, offVersion, offStatus, State.status, h, hs, hc, he,
        HS.code, CS.code, flagWord]
  have hcode : (busRead offErrcode s = 3#32) ↔ s.err.code = .unsupportedAlg := by
    cases h : s.err.code <;>
      simp [busRead, regRead, offId, offVersion, offStatus, offErrcode, State.errcodeWord, h,
        ErrCode.byte]
  simp [failureOf, hbit, hcode]

theorem check_unlocked {α : Type} {s : State} (onward : State → Outcome α)
    (h : s.err.locked = false) : check s onward = onward s := by
  simp [check, failureOf_eq, h]

theorem check_internal {α : Type} {s : State} (onward : State → Outcome α)
    (h : s.err.locked = true) (hc : s.err.code ≠ .unsupportedAlg) :
    check s onward = (resetBlock s, .error .internal) := by
  simp [check, failureOf_eq, h, hc]

theorem check_unsupported {α : Type} {s : State} (onward : State → Outcome α)
    (h : s.err.locked = true) (hc : s.err.code = .unsupportedAlg) :
    check s onward = (s, .error .unsupportedAlgorithm) := by
  simp [check, failureOf_eq, h, hc]

@[simp] theorem continueWith_ok {α β : Type} (t : State) (a : α) (f : State → α → Outcome β) :
    continueWith (t, .ok a) f = f t a := rfl
@[simp] theorem continueWith_error {α β : Type} (t : State) (e : Failure) (f : State → α → Outcome β) :
    continueWith (t, .error e) f = (t, .error e) := rfl
@[simp] theorem caught_ok {α : Type} (t : State) (a b : α) : caught b (t, .ok a) = (t, .ok a) := rfl
@[simp] theorem caught_internal {α : Type} (t : State) (b : α) :
    caught b (t, .error .internal) = (t, .ok b) := rfl
@[simp] theorem caught_unsupported {α : Type} (t : State) (b : α) :
    caught b (t, .error .unsupportedAlgorithm) = (t, .error .unsupportedAlgorithm) := rfl

/-! ## Comparison in parts -/

/-- A short string has one part. -/
theorem part_zero {x : List Byte} (h : x.length < 2 ^ 32) : part 0 x = x := by
  simp only [part, Nat.zero_mul, List.drop_zero]
  exact List.take_of_length_le (by simp only [maxCompared]; omega)

/-- Part k, byte by byte. -/
theorem getElem?_part (k j : Nat) (x : List Byte) (h : j < maxCompared) :
    (part k x)[j]? = x[k * maxCompared + j]? := by
  simp [part, h]

/-- Strings whose parts 0 to n are equal, and that end there, are equal. -/
theorem eq_of_parts_eq {n : Nat} {a b : List Byte} (ha : a.length ≤ (n + 1) * maxCompared)
    (hb : b.length ≤ (n + 1) * maxCompared) (h : ∀ k, k ≤ n → part k a = part k b) : a = b := by
  have hm : 0 < maxCompared := by decide
  apply List.ext_getElem?
  intro i
  by_cases hi : i < (n + 1) * maxCompared
  · have hk : i / maxCompared ≤ n := Nat.lt_succ_iff.mp ((Nat.div_lt_iff_lt_mul hm).mpr hi)
    have hj := Nat.mod_lt i hm
    have hij : i / maxCompared * maxCompared + i % maxCompared = i := Nat.div_add_mod' i maxCompared
    rw [← hij, ← getElem?_part _ _ _ hj, ← getElem?_part _ _ _ hj, h _ hk]
  · rw [List.getElem?_eq_none (by omega), List.getElem?_eq_none (by omega)]

/-- The number of comparisons ctEqual makes covers both strings. -/
theorem length_le_parts (a b : List Byte) :
    a.length ≤ ((max a.length b.length - 1) / maxCompared + 1) * maxCompared ∧
      b.length ≤ ((max a.length b.length - 1) / maxCompared + 1) * maxCompared := by
  simp only [maxCompared]
  omega

end Sys2Proof.Machine.Boundary
end

