-- ==== Sys2Proof/Laws/Datapath.lean ====
section
/-!
SUPPORT. What the datapath's operations can do: one lemma per operation, and the fields each leaves
alone.
-/

namespace Sys2Proof.Machine

/-! ### The rounds -/

@[simp] theorem Datapath.round_h (d : Datapath) : d.round.h = d.h := rfl
@[simp] theorem Datapath.round_w (d : Datapath) : d.round.w = d.w := rfl
@[simp] theorem Datapath.round_buf (d : Datapath) : d.round.buf = d.buf := rfl
@[simp] theorem Datapath.round_blen (d : Datapath) : d.round.blen = d.blen := rfl
@[simp] theorem Datapath.round_len (d : Datapath) : d.round.len = d.len := rfl
@[simp] theorem Datapath.round_compressions (d : Datapath) :
    d.round.compressions = d.compressions := rfl

/-- A run of rounds changes the working variables and the round counter only. -/
theorem Datapath.rounds_frame (k : Nat) (d : Datapath) :
    ∃ wv rc, Datapath.rounds k d = { d with wv := wv, rc := rc } := by
  induction k generalizing d with
  | zero => exact ⟨d.wv, d.rc, rfl⟩
  | succ k ih =>
    obtain ⟨wv, rc, h⟩ := ih d.round
    exact ⟨wv, rc, h⟩

/-! ### One compression (rule R136) -/

/-- The scheduler reads BUF, W and H only. -/
theorem Datapath.schedule_eq (d : Datapath) :
    d.schedule = { d with
      w := expandSchedule (formWords d.buf d.w), wv := loadWorking d.h, rc := 0 } := rfl

/-- A compression leaves BUF, BLEN and LEN alone, ends with RC = 0 and W the expanded schedule, and
counts once (rules R24, R136). -/
theorem Datapath.compress_frame (d : Datapath) :
    d.compress.buf = d.buf ∧ d.compress.blen = d.blen ∧ d.compress.len = d.len ∧
      d.compress.rc = 0 ∧ d.compress.compressions = d.compressions + 1 ∧
      d.compress.w = expandSchedule (formWords d.buf d.w) := by
  obtain ⟨wv, rc, h⟩ := Datapath.rounds_frame 64 d.schedule
  rw [Datapath.compress, h]
  exact ⟨rfl, rfl, rfl, rfl, rfl, rfl⟩

@[simp] theorem Datapath.compress_buf (d : Datapath) : d.compress.buf = d.buf := d.compress_frame.1
@[simp] theorem Datapath.compress_blen (d : Datapath) : d.compress.blen = d.blen :=
  d.compress_frame.2.1
@[simp] theorem Datapath.compress_len (d : Datapath) : d.compress.len = d.len :=
  d.compress_frame.2.2.1
@[simp] theorem Datapath.compress_rc (d : Datapath) : d.compress.rc = 0 := d.compress_frame.2.2.2.1
@[simp] theorem Datapath.compress_compressions (d : Datapath) :
    d.compress.compressions = d.compressions + 1 := d.compress_frame.2.2.2.2.1

/-! ### Placing bytes -/

/-- pad_byte when the block fills. -/
theorem Datapath.padByte_full (b : Byte) (d : Datapath) (h : d.blen.toNat + 1 = 64) :
    d.padByte b = { Datapath.compress { d with buf := d.buf.setIfInBounds d.blen.toNat b } with
      blen := 0 } := by
  simp [Datapath.padByte, h]

/-- pad_byte when the block does not fill. -/
theorem Datapath.padByte_partial (b : Byte) (d : Datapath) (h : d.blen.toNat + 1 ≠ 64) :
    d.padByte b =
      { d with buf := d.buf.setIfInBounds d.blen.toNat b, blen := d.blen + 1 } := by
  simp [Datapath.padByte, h]

/-- pad_byte does not count in LEN (rule R139). -/
@[simp] theorem Datapath.padByte_len (b : Byte) (d : Datapath) : (d.padByte b).len = d.len := by
  by_cases h : d.blen.toNat + 1 = 64
  · rw [Datapath.padByte_full b d h]; simp
  · rw [Datapath.padByte_partial b d h]

/-- BLEN after one byte: the count modulo 64 (rule R139). -/
theorem Datapath.padByte_blen (b : Byte) (d : Datapath) :
    (d.padByte b).blen.toNat = (d.blen.toNat + 1) % 64 := by
  by_cases h : d.blen.toNat + 1 = 64
  · rw [Datapath.padByte_full b d h]; simp [h]
  · rw [Datapath.padByte_partial b d h]
    simp [BitVec.toNat_add]

/-- absorb counts 8 bits, modulo 2^64 (rule R140). -/
@[simp] theorem Datapath.absorb_len (b : Byte) (d : Datapath) : (d.absorb b).len = d.len + 8 := by
  simp [Datapath.absorb]

theorem Datapath.absorb_blen (b : Byte) (d : Datapath) :
    (d.absorb b).blen.toNat = (d.blen.toNat + 1) % 64 := by
  simp [Datapath.absorb, Datapath.padByte_blen]

@[simp] theorem Datapath.absorbAll_nil (d : Datapath) : d.absorbAll [] = d := rfl

@[simp] theorem Datapath.absorbAll_cons (b : Byte) (bs : List Byte) (d : Datapath) :
    d.absorbAll (b :: bs) = (d.absorb b).absorbAll bs := rfl

theorem Datapath.absorbAll_append (xs ys : List Byte) (d : Datapath) :
    d.absorbAll (xs ++ ys) = (d.absorbAll xs).absorbAll ys := by
  simp [Datapath.absorbAll, List.foldl_append]

@[simp] theorem Datapath.padAll_nil (d : Datapath) : d.padAll [] = d := rfl

@[simp] theorem Datapath.padAll_cons (b : Byte) (bs : List Byte) (d : Datapath) :
    d.padAll (b :: bs) = (d.padByte b).padAll bs := rfl

theorem Datapath.padAll_append (xs ys : List Byte) (d : Datapath) :
    d.padAll (xs ++ ys) = (d.padAll xs).padAll ys := by
  simp [Datapath.padAll, List.foldl_append]

/-! ### core_init and zeroise (rules R138, R142) -/

@[simp] theorem Datapath.coreInit_h (d : Datapath) : d.coreInit.h = h0Rom := rfl
@[simp] theorem Datapath.coreInit_wv (d : Datapath) : d.coreInit.wv = d.wv := rfl
@[simp] theorem Datapath.coreInit_w (d : Datapath) : d.coreInit.w = d.w := rfl
@[simp] theorem Datapath.coreInit_rc (d : Datapath) : d.coreInit.rc = d.rc := rfl
@[simp] theorem Datapath.coreInit_blen (d : Datapath) : d.coreInit.blen = 0 := rfl
@[simp] theorem Datapath.coreInit_len (d : Datapath) : d.coreInit.len = 0 := rfl
@[simp] theorem Datapath.coreInit_compressions (d : Datapath) :
    d.coreInit.compressions = d.compressions := rfl

@[simp] theorem Datapath.zeroise_h (d : Datapath) : d.zeroise.h = Vector.replicate 8 0 := rfl
@[simp] theorem Datapath.zeroise_blen (d : Datapath) : d.zeroise.blen = 0 := rfl
@[simp] theorem Datapath.zeroise_len (d : Datapath) : d.zeroise.len = 0 := rfl
@[simp] theorem Datapath.zeroise_rc (d : Datapath) : d.zeroise.rc = d.rc := rfl
@[simp] theorem Datapath.zeroise_compressions (d : Datapath) :
    d.zeroise.compressions = d.compressions := rfl

end Sys2Proof.Machine
end

