-- ==== Sys2Proof/Laws/PerInstr.lean ====
section
/-!
SUPPORT. Laws about every command as syntax, one lemma per constructor.
-/

/-- The match and mask of the opcode map's row of a command (rule R94). -/
def Sys2Proof.Laws.MatchesRow.rowBits : Sys2Proof.Instr → Sys2Proof.Word × Sys2Proof.Word
  | .nop => (0x00000000, 0xFFFFFFFF)
  | .shaInit => (0x00000001, 0xFFFFFFFF)
  | .shaUpdate _ => (0x00000002, 0xFFFF00FF)
  | .shaFinal => (0x00000003, 0xFFFFFFFF)
  | .hmacBegin _ => (0x00000010, 0xFF00FFFF)
  | .hmacKey _ => (0x00000011, 0xFFFF00FF)
  | .hmacKeyend => (0x00000012, 0xFFFFFFFF)
  | .hmacMsg _ => (0x00000013, 0xFFFF00FF)
  | .hmacFinal => (0x00000014, 0xFFFFFFFF)
  | .cmpBegin => (0x00000020, 0xFFFFFFFF)
  | .cmpFeed _ => (0x00000021, 0xFFFF00FF)
  | .cmpEnd => (0x00000022, 0xFFFFFFFF)
  | .softReset => (0x000000FF, 0xFFFFFFFF)

/-- The encoding of a command is a word of its row: "(c & mask) = match" (rule R94). -/
def Sys2Proof.Laws.MatchesRow.Statement (i : Sys2Proof.Instr) : Prop :=
  Sys2Proof.encode i &&& (rowBits i).2 = (rowBits i).1

namespace Sys2Proof.Laws.MatchesRow

/-- An encoded word with any N keeps the bits a row of the form `0xFFFF00FF` fixes. -/
theorem enc_n_masked (op n : Byte) : enc op n 0 &&& 0xFFFF00FF#32 = op.setWidth 32 := by
  ext i hi
  simp only [enc]
  interval_cases i <;> simp

/-- An encoded word with any ALG keeps the bits the HMAC.BEGIN row fixes. -/
theorem enc_alg_masked (op alg : Byte) : enc op 0 alg &&& 0xFF00FFFF#32 = op.setWidth 32 := by
  ext i hi
  simp only [enc]
  interval_cases i <;> simp

theorem nop : Statement .nop := by unfold Statement; decide
theorem shaInit : Statement .shaInit := by unfold Statement; decide
theorem shaUpdate (n : Byte) : Statement (.shaUpdate n) := enc_n_masked 0x02 n
theorem shaFinal : Statement .shaFinal := by unfold Statement; decide
theorem hmacBegin (alg : Byte) : Statement (.hmacBegin alg) := enc_alg_masked 0x10 alg
theorem hmacKey (n : Byte) : Statement (.hmacKey n) := enc_n_masked 0x11 n
theorem hmacKeyend : Statement .hmacKeyend := by unfold Statement; decide
theorem hmacMsg (n : Byte) : Statement (.hmacMsg n) := enc_n_masked 0x13 n
theorem hmacFinal : Statement .hmacFinal := by unfold Statement; decide
theorem cmpBegin : Statement .cmpBegin := by unfold Statement; decide
theorem cmpFeed (n : Byte) : Statement (.cmpFeed n) := enc_n_masked 0x21 n
theorem cmpEnd : Statement .cmpEnd := by unfold Statement; decide
theorem softReset : Statement .softReset := by unfold Statement; decide

end Sys2Proof.Laws.MatchesRow
end

