-- ==== Sys2Proof/Tests/Slice0.lean ====
section
/-!
SUPPORT. Tests of the model on the spec's own examples (95_test_vectors.md and the Example lines of the
rules), the smoke test of WellFormed, and a witness for the hypotheses of every statement.
-/

namespace Sys2Proof.Tests

open Sys2Proof Sys2Proof.Machine

/-! ## Helpers -/

/-- The next state of a result. -/
def nextOf : Result → State
  | .next s => s
  | .fault _ => .reset
  | .refused _ => .reset

/-- The reset state with another HS. -/
def inHs (h : HS) : State := State.reset.withHs h

/-- The reset state with the given bytes first in DATA. -/
def withBytes (h : HS) (bytes : List Byte) : State :=
  (inHs h).withData (Vector.ofFn fun j : Fin 64 => bytes.getD j.val 0)

/-- A block locked by a SEQUENCE error of SHA.UPDATE 3 (vector E6). -/
def lockedBlock : State := State.reset.withErr ⟨true, .sequence, 0x00000302⟩

/-- A block locked by the configuration error of vector E8. -/
def lockedByAlg : State := State.reset.withErr ⟨true, .unsupportedAlg, 0x00020010⟩

/-- A comparison unit state at otherwise reset registers. -/
def comparing (c : CmpRegs) : State := State.reset.withCmp c

/-- The reset state with one bus event pending. -/
def pending (e : BusEvent) : State := State.reset.withPort [e]

/-- After `SHA.INIT; PUT.DATA "abc"; SHA.UPDATE 3` (rule R146's example). -/
def abcAbsorbed : State := nextOf (exec (.shaUpdate 3) (nextOf (exec .shaInit (withBytes .idle [0x61, 0x62, 0x63]))))

/-- After `HMAC.BEGIN sha256; PUT.DATA "Jefe"; HMAC.KEY 4; HMAC.KEYEND` (rule R184's example). -/
def jefeKeyed : State :=
  nextOf (exec .hmacKeyend (nextOf (exec (.hmacKey 4) (withBytes .hkey [0x4A, 0x65, 0x66, 0x65]))))

/-! ## WellFormed: an ill-formed term for each check -/

theorem test_wf_refuses_shaUpdate_65 : (Instr.shaUpdate 65).wf = false := by decide
theorem test_wf_refuses_hmacKey_65 : (Instr.hmacKey 65).wf = false := by decide
theorem test_wf_refuses_hmacMsg_255 : (Instr.hmacMsg 255).wf = false := by decide
theorem test_wf_refuses_cmpFeed_65 : (Instr.cmpFeed 65).wf = false := by decide
theorem test_wf_refuses_hmacBegin_0 : (Instr.hmacBegin 0).wf = false := by decide
theorem test_wf_refuses_hmacBegin_2 : (Instr.hmacBegin 2).wf = false := by decide
theorem test_wf_accepts_bounds : (Instr.shaUpdate 64).wf = true ∧ (Instr.hmacBegin 1).wf = true := by
  decide

/-! ## Decoding: a word written out from the fields of rule R90 for every constructor -/

theorem test_decode_nop : decode 0b00000000000000000000000000000000 = .ok .nop := by decide
theorem test_decode_shaInit : decode 0b00000000000000000000000000000001 = .ok .shaInit := by decide
theorem test_decode_shaUpdate : decode 0b00000000000000000000001100000010 = .ok (.shaUpdate 3) := by decide
theorem test_decode_shaFinal : decode 0b00000000000000000000000000000011 = .ok .shaFinal := by decide
theorem test_decode_hmacBegin : decode 0b00000000000000010000000000010000 = .ok (.hmacBegin 1) := by decide
theorem test_decode_hmacKey : decode 0b00000000000000000100000000010001 = .ok (.hmacKey 64) := by decide
theorem test_decode_hmacKeyend : decode 0b00000000000000000000000000010010 = .ok .hmacKeyend := by decide
theorem test_decode_hmacMsg : decode 0b00000000000000000001110000010011 = .ok (.hmacMsg 28) := by decide
theorem test_decode_hmacFinal : decode 0b00000000000000000000000000010100 = .ok .hmacFinal := by decide
theorem test_decode_cmpBegin : decode 0b00000000000000000000000000100000 = .ok .cmpBegin := by decide
theorem test_decode_cmpFeed : decode 0b00000000000000000011100000100001 = .ok (.cmpFeed 56) := by decide
theorem test_decode_cmpEnd : decode 0b00000000000000000000000000100010 = .ok .cmpEnd := by decide
theorem test_decode_softReset : decode 0b00000000000000000000000011111111 = .ok .softReset := by decide
/-- Vectors E1, E2, E3 and E25: the three kinds of illegal word. -/
theorem test_decode_illegal : decode 0x00000004 = .error .unknownOp ∧
    decode 0x00000100 = .error .unusedField ∧ decode 0x01000001 = .error .reservedNonzero ∧
    decode 0x000001FF = .error .unusedField := by decide
theorem test_table_word : decodeTableWord 32 0x00001C13 = some (.hmacMsg 28) ∧
    decodeTableWord 32 0x00000004 = none := by decide

/-! ## The datapath on the spec's values -/

/-- Section 2.1's row 12345678 and the two rotations. -/
theorem test_bit_functions : smallSigma0 0x12345678 = 0xe7fce6ee ∧ smallSigma1 0x12345678 = 0xa1f78649 ∧
    bigSigma0 0x61626380 = 0x8dd59276 ∧ bigSigma1 0x61626380 = 0xc0b865f2 ∧
    rotr 0x00000001 1 = 0x80000000 ∧ rotr 0x80000001 31 = 0x00000003 := by decide

/-- Rule R134's example: round 0 of the "abc" block. -/
theorem test_round_zero : roundWith 0x428a2f98 0x61626380 (loadWorking h0Rom) =
    ⟨0x5d6aebcd, 0x6a09e667, 0xbb67ae85, 0x3c6ef372, 0xfa2a4622, 0x510e527f, 0x9b05688c, 0x1f83d9ab⟩ := by
  decide

/-! ## One test or two per command, from the rules' Example lines and 95_test_vectors.md -/

/-- Section 7: NOP with HS = SHA and BLEN = 3 leaves STATUS 0x00000302. -/
theorem test_nop : (nextOf (exec .nop abcAbsorbed)).status = 0x00000302 := by decide

/-- Rule R145: from reset, STATUS 0x00000002. -/
theorem test_shaInit : (nextOf (exec .shaInit State.reset)).status = 0x00000002 := by decide
/-- Vector E7: no restart during SHA. -/
theorem test_shaInit_sequence : (nextOf (exec .shaInit (inHs .sha))).status = 0x00000003 := by decide

/-- Rule R146: BLEN = 3, STATUS 0x00000302, LEN = 24. -/
theorem test_shaUpdate : abcAbsorbed.status = 0x00000302 ∧ abcAbsorbed.dp.len = 24 := by decide
/-- Vector E5: BAD_LEN before SEQUENCE. -/
theorem test_shaUpdate_badLen : (nextOf (exec (.shaUpdate 65) State.reset)).err =
    ⟨true, .badLen, 0x00004102⟩ := by decide

/-- Rule R147: the digest of "abc". -/
theorem test_shaFinal : (nextOf (exec .shaFinal abcAbsorbed)).dout.toList =
    [0xba, 0x78, 0x16, 0xbf, 0x8f, 0x01, 0xcf, 0xea, 0x41, 0x41, 0x40, 0xde, 0x5d, 0xae, 0x22, 0x23,
     0xb0, 0x03, 0x61, 0xa3, 0x96, 0x17, 0x7a, 0x9c, 0xb4, 0x10, 0xff, 0x61, 0xf2, 0x00, 0x15, 0xad] := by
  decide +kernel

/-- Rule R181: from reset, STATUS 0x00000006. -/
theorem test_hmacBegin : (nextOf (exec (.hmacBegin 1) State.reset)).status = 0x00000006 := by decide
/-- Vector E8: UNSUPPORTED_ALG before SEQUENCE. -/
theorem test_hmacBegin_alg : (nextOf (exec (.hmacBegin 2) (inHs .sha))).err =
    ⟨true, .unsupportedAlg, 0x00020010⟩ := by decide

/-- Rule R183: KLEN = 4, STATUS 0x00040006. -/
theorem test_hmacKey : (nextOf (exec (.hmacKey 4) (withBytes .hkey [0x4A, 0x65, 0x66, 0x65]))).status =
    0x00040006 := by decide
/-- Section 3's key-boundary trace: the 65th byte gives HKEYH, KLEN = 65, BLEN = 1. -/
theorem test_hmacKey_65th : (nextOf (exec (.hmacKey 1) ((inHs .hkey).withMac
    { MacRegs.reset with klen := 64 }))).status = 0x00410108 := by decide +kernel

/-- Rule R184: STATUS 0x0004000A. -/
theorem test_hmacKeyend : jefeKeyed.status = 0x0004000A := by decide +kernel
/-- Section 3's key-boundary trace: from HKEYH, STATUS 0x0041000A. Its fields are HS = HMSG and
KLEN = 65, which rule R41 item 4 as written excludes (log entry 4). -/
theorem test_hmacKeyend_long :
    let t := nextOf (exec .hmacKeyend (((inHs .hkeyh).withMac
      { MacRegs.reset with klen := 65 }).withDp { Datapath.reset with blen := 1 }))
    t.status = 0x0041000A ∧ t.hs = .hmsg ∧ t.mac.klen = 65 := by decide +kernel

/-- Vector E12: a message before KEYEND. -/
theorem test_hmacMsg_sequence : (nextOf (exec (.hmacMsg 1) (inHs .hkey))).err =
    ⟨true, .sequence, 0x00000113⟩ := by decide
/-- Rule R185: 28 message bytes give BLEN = 28. -/
theorem test_hmacMsg : (nextOf (exec (.hmacMsg 28) (inHs .hmsg))).status = 0x00001C0A := by
  decide +kernel

/-- Section 3, empty key and empty message: the MAC. -/
theorem test_hmacFinal : (nextOf (exec .hmacFinal (nextOf (exec .hmacKeyend (inHs .hkey))))).dout.toList =
    [0xb6, 0x13, 0x67, 0x9a, 0x08, 0x14, 0xd9, 0xec, 0x77, 0x2f, 0x95, 0xd7, 0x78, 0xc3, 0x5f, 0xc5,
     0xff, 0x16, 0x97, 0xc4, 0x93, 0x71, 0x56, 0x53, 0xc6, 0xc7, 0x12, 0x14, 0x42, 0x92, 0xc5, 0xad] := by
  decide +kernel

/-- Rule R231: lengths 3 and 4 give STATUS 0x00000020. -/
theorem test_cmpBegin : (nextOf (exec .cmpBegin (comparing { CmpRegs.reset with lenA := 3, lenB := 4 }))).status =
    0x00000020 := by decide

/-- Section 4, "ab" against "ba": the OR accumulation gives ACC = 03. -/
theorem test_cmpFeed : (nextOf (exec (.cmpFeed 2) (((comparing
    { CmpRegs.reset with remain := 2, cs := .active }).withData
    (Vector.ofFn fun j : Fin 64 => [0x61, 0x62].getD j.val 0)).withDatb
    (Vector.ofFn fun j : Fin 64 => [0x62, 0x61].getD j.val 0)))).cmp.acc = 0x03 := by decide
/-- Vector E19: more bytes than declared. -/
theorem test_cmpFeed_tooMany : (nextOf (exec (.cmpFeed 5) (comparing
    { CmpRegs.reset with remain := 3, cs := .active }))).err = ⟨true, .badLen, 0x00000521⟩ := by decide

/-- Section 4, equal strings: STATUS 0x00000060. -/
theorem test_cmpEnd : (nextOf (exec .cmpEnd (comparing { CmpRegs.reset with cs := .active }))).status =
    0x00000060 := by decide
/-- Vector E20: CMP_INCOMPLETE. -/
theorem test_cmpEnd_incomplete : (nextOf (exec .cmpEnd (comparing
    { CmpRegs.reset with remain := 3, cs := .active }))).err =
    ⟨true, .cmpIncomplete, 0x00000022⟩ := by decide

/-- Section 7: SOFT_RESET from HMSG; vector E24: it clears the lock. -/
theorem test_softReset : (nextOf (exec .softReset (inHs .hmsg))).status = 0x00000000 ∧
    (nextOf (exec .softReset lockedBlock)).err = ⟨false, .none, 0⟩ := by decide

/-! ## The bus (section 6) -/

theorem test_read_id : (nextOf (step (pending (.read 0x00 4)))).responses = [.readData 0x53484132] := by
  decide
theorem test_misaligned_cmd : (nextOf (step (pending (.write 0x16 4 0x00000001)))).responses =
    [.writeError] ∧ (nextOf (step (pending (.write 0x16 4 0x00000001)))).status = 0 := by decide
theorem test_narrow_read : (nextOf (step (pending (.read 0x40 1)))).responses = [.readError 0] := by
  decide
theorem test_write_data : (nextOf (step (pending (.write 0x40 4 0x00636261)))).data.toList.take 4 =
    [0x61, 0x62, 0x63, 0x00] := by decide
theorem test_write_len_locked : (nextOf (step (lockedBlock.withPort [.write 0x18 4 5]))).cmp.lenA = 5 := by
  decide
/-- Vectors E23 and E26: while locked, other words are ignored and the first error is kept. -/
theorem test_locked : (nextOf (step (lockedBlock.withPort [.write 0x14 4 0x00010010]))).err = lockedBlock.err ∧
    (nextOf (step (lockedBlock.withPort [.write 0x14 4 0x000001FF]))).err = lockedBlock.err := by decide
theorem test_fetch_word : (nextOf (step (State.reset.withFetchWord 32 0x00000302))).err =
    ⟨true, .sequence, 0x00000302⟩ := by decide

/-! ## The host boundary (section 8) -/

theorem test_base64 : (Boundary.base64 [0x5b, 0xdc, 0xc1, 0x46, 0xbf]) =
    ['W', '9', 'z', 'B', 'R', 'r', '8', '='] := by decide
theorem test_hex : Boundary.hex [0xe3, 0xb0] = ['e', '3', 'b', '0'] := by decide
theorem test_utf8 : Boundary.utf8 ['h', 'é'] = [0x68, 0xC3, 0xA9] := by decide
theorem test_last_dot : Boundary.beforeLastDot ['a', '.', 'b', '.', 'c'] = some ['a', '.', 'b'] := by decide

/-- Rules R212 and R220: another algorithm is the configuration error. -/
theorem test_configuration_error : (Boundary.hmacWith 0x02 [] [] State.reset).2 =
    .error .unsupportedAlgorithm := by decide
/-- Rules R217, R220: an internal failure of sign gives the message, after a SOFT_RESET. -/
theorem test_sign_fallback : (Boundary.sign ['m'] ['k'] lockedBlock).2 = .ok ['m'] ∧
    (Boundary.sign ['m'] ['k'] lockedBlock).1.err.locked = false := by decide +kernel
/-- Rule R220: on a block locked by UNSUPPORTED_ALG the configuration error propagates. -/
theorem test_configuration_propagates : Boundary.unsign ['m', '.'] ['k'] lockedByAlg =
    (lockedByAlg, .error .unsupportedAlgorithm) := by decide +kernel

/-- Rules R120 and R121: a table entry is its prime's scaled root modulo 2^32: with some integer part
q, `(q · 2^32 + entry)` is the integer root. -/
theorem test_rom_tables :
    (h0Table.all fun e => (List.range 5).any fun q => let r := q * 2 ^ 32 + e.2.toNat
      decide (r ^ 2 ≤ e.1 * 2 ^ 64) && decide (e.1 * 2 ^ 64 < (r + 1) ^ 2)) = true ∧
    (kTable.all fun e => (List.range 7).any fun q => let r := q * 2 ^ 32 + e.2.toNat
      decide (r ^ 3 ≤ e.1 * 2 ^ 96) && decide (e.1 * 2 ^ 96 < (r + 1) ^ 3)) = true := by
  decide +kernel

/-! ## Witnesses: the hypotheses of every statement are met, clause by clause -/

/-- The reset state with the datapath of a computation that has absorbed nothing. -/
theorem absorbed_nothing : Datapath.reset.coreInit.Absorbed [] :=
  ⟨rfl, rfl, by intro j hj; simp at hj, rfl⟩

/-- A datapath that has absorbed the 64-byte inner pad of the empty key. -/
def padAbsorbedDp : Datapath :=
  { Datapath.reset with
    h := Reference.hashBlocks (Reference.blocksOf 1
      (Reference.xorAll 0x36 (Reference.normalizedKey [])))
    len := 512 }

theorem normalized_empty : Reference.normalizedKey [] = List.replicate 64 0 := by decide

theorem pad_absorbed :
    padAbsorbedDp.Absorbed (Reference.xorAll 0x36 (Reference.normalizedKey []) ++ []) := by
  have hl : (Reference.xorAll 0x36 (Reference.normalizedKey []) ++ []).length = 64 := by
    simp [Reference.xorAll, normalized_empty]
  refine ⟨?_, ?_, ?_, ?_⟩
  · rw [hl, List.append_nil]; rfl
  · rw [hl]; rfl
  · rw [hl]; intro j hj; omega
  · rw [hl]; rfl

/-- An HMAC context with the empty key that has absorbed no message. -/
def emptyKeyMsg : State := (inHs .hmsg).withDp padAbsorbedDp

theorem witness_message_absorbed : emptyKeyMsg.err.locked = false ∧ emptyKeyMsg.MessageAbsorbed [] [] :=
  ⟨rfl, rfl, by rw [normalized_empty]; decide, pad_absorbed⟩

theorem witness_key_received : (inHs .hkey).err.locked = false ∧ (inHs .hkey).KeyReceived [] :=
  ⟨rfl, .inl ⟨rfl, by decide, by decide, by decide⟩⟩

/-- SHA in progress, nothing absorbed. -/
def shaStarted : State := (inHs .sha).withDp Datapath.reset.coreInit

theorem witness_sha_absorbed : shaStarted.err.locked = false ∧ shaStarted.hs = .sha ∧
    shaStarted.dp.Absorbed [] := ⟨rfl, rfl, absorbed_nothing⟩

/-- A state in the middle of a digest meets the invariants. -/
theorem shaStarted_inv : shaStarted.Inv where
  blen_le := by decide
  datapath_cleared := by decide
  key_held := by intro h; exact absurd h (by decide)
  long_key := by decide
  klen_le := by decide
  key_erased := by intro _; exact ⟨rfl, rfl⟩
  dout_zero := by intro _ _; rfl
  compare_idle := by decide
  verdict_only_done := by decide
  code_iff := by decide
  cmd_iff := by decide
  rc_zero := rfl
  idig_zero := rfl

/-- A block receiving its key, with 64 bytes of zeros held, meets the invariants. -/
def keyHeld : State := (inHs .hkey).withMac { MacRegs.reset with klen := 64 }

theorem keyHeld_inv : keyHeld.Inv where
  blen_le := by decide
  datapath_cleared := by intro _; exact ⟨rfl, rfl, rfl⟩
  key_held := by
    intro _
    refine ⟨by decide, ?_⟩
    intro j h1 h2
    have : keyHeld.mac.klen.toNat = 64 := by decide
    omega
  long_key := by decide
  klen_le := by decide
  key_erased := by decide
  dout_zero := by intro _ _; rfl
  compare_idle := by decide
  verdict_only_done := by decide
  code_iff := by decide
  cmd_iff := by decide
  rc_zero := rfl
  idig_zero := rfl

/-- A block receiving a key already longer than 64 bytes. -/
def keyHashing : State := (inHs .hkeyh).withMac { MacRegs.reset with klen := 65 }

theorem keyHashing_inv : keyHashing.Inv where
  blen_le := by decide
  datapath_cleared := by decide
  key_held := by decide
  long_key := by decide
  klen_le := by decide
  key_erased := by decide
  dout_zero := by intro _ _; rfl
  compare_idle := by decide
  verdict_only_done := by decide
  code_iff := by decide
  cmd_iff := by decide
  rc_zero := rfl
  idig_zero := rfl

/-- A block absorbing its message after a long key: the one HS where KLEN = 65 outside HKEYH. -/
def longKeyMsg : State := (inHs .hmsg).withMac { MacRegs.reset with klen := 65 }

theorem longKeyMsg_inv : longKeyMsg.Inv where
  blen_le := by decide
  datapath_cleared := by decide
  key_held := by decide
  long_key := by decide
  klen_le := by decide
  key_erased := by decide
  dout_zero := by intro _ _; rfl
  compare_idle := by decide
  verdict_only_done := by decide
  code_iff := by decide
  cmd_iff := by decide
  rc_zero := rfl
  idig_zero := rfl

theorem witness_IllegalWordsAreTheThreeKinds : State.reset.err.locked = false ∧
    decode 0x000000FE = .error .unknownOp ∧ decode 0xFF000020 = .error .reservedNonzero ∧
    decode 0x00010022 = .error .unusedField := by decide

theorem witness_SoftResetRestoresTheResetState : lockedBlock.err.locked = true ∧
    State.reset.err.locked = false ∧ fieldOp 0x000001FF = 0xFF ∧ (0x000001FF : Word) ≠ 0x000000FF := by
  decide

theorem witness_ShaInitStartsADigest : lockedBlock.err.locked = true ∧
    ((inHs .hmsg).err.locked = false ∧ (inHs .hmsg).hs ≠ .idle ∧ (inHs .hmsg).hs ≠ .shaDone ∧
      (inHs .hmsg).hs ≠ .hmacDone) ∧
    ((inHs .hmacDone).err.locked = false ∧ (inHs .hmacDone).hs = .hmacDone) ∧
    (fieldOp 0x01000001 = 0x01 ∧ (0x01000001 : Word) ≠ 0x00000001) := by decide

theorem witness_ShaUpdateAbsorbsNBytes : lockedBlock.err.locked = true ∧
    (State.reset.err.locked = false ∧ 64 < (65 : Byte).toNat) ∧
    ((64 : Byte).toNat ≤ 64 ∧ State.reset.hs ≠ .sha) ∧
    ((inHs .sha).err.locked = false ∧ (64 : Byte).toNat ≤ 64 ∧ (inHs .sha).hs = .sha) ∧
    (fieldOp 0x00010002 = 0x02 ∧ (0x00010002 : Word) >>> 16 ≠ 0) := by decide

theorem witness_ShaFinalPublishesTheDigest : lockedBlock.err.locked = true ∧
    (State.reset.err.locked = false ∧ State.reset.hs ≠ .sha) ∧
    (fieldOp 0x00000103 = 0x03 ∧ (0x00000103 : Word) ≠ 0x00000003) ∧
    (shaStarted.err.locked = false ∧ shaStarted.hs = .sha ∧ shaStarted.dp.Absorbed []) :=
  ⟨rfl, by decide, by decide, rfl, rfl, absorbed_nothing⟩

theorem witness_HmacBeginCreatesAContext : lockedBlock.err.locked = true ∧
    (State.reset.err.locked = false ∧ (0 : Byte) ≠ 0x01) ∧
    ((inHs .sha).err.locked = false ∧ (inHs .sha).hs ≠ .idle ∧ (inHs .sha).hs ≠ .shaDone ∧
      (inHs .sha).hs ≠ .hmacDone) ∧
    State.reset.hs = .idle ∧
    (fieldOp 0x00010110 = 0x10 ∧ fieldN 0x00010110 ≠ 0) ∧
    (fieldOp 0x01010010 = 0x10 ∧ fieldRsv 0x01010010 ≠ 0) := by decide

theorem witness_HmacKeyDeliversNBytes :
    (lockedBlock.err.locked = true ∧ 64 < (255 : Byte).toNat ∧ State.reset.err.locked = false ∧
      State.reset.hs ≠ .hkey ∧ State.reset.hs ≠ .hkeyh ∧
      fieldOp 0x80000011 = 0x11 ∧ (0x80000011 : Word) >>> 16 ≠ 0) ∧
    (keyHeld.err.locked = false ∧ (64 : Byte).toNat ≤ 64 ∧ keyHeld.hs = .hkey ∧ keyHeld.Inv) ∧
    (keyHashing.err.locked = false ∧ keyHashing.hs = .hkeyh ∧ keyHashing.Inv) :=
  ⟨by decide, ⟨rfl, by decide, rfl, keyHeld_inv⟩, rfl, rfl, keyHashing_inv⟩

theorem witness_HmacKeyendStartsTheInnerHash : lockedBlock.err.locked = true ∧
    (State.reset.err.locked = false ∧ State.reset.hs ≠ .hkey ∧ State.reset.hs ≠ .hkeyh) ∧
    ((inHs .hkey).err.locked = false ∧ (inHs .hkey).hs = .hkey) ∧
    (keyHashing.err.locked = false ∧ keyHashing.hs = .hkeyh) ∧
    (fieldOp 0x00000112 = 0x12 ∧ (0x00000112 : Word) ≠ 0x00000012) := by decide

theorem witness_HmacMsgAbsorbsNBytes : lockedBlock.err.locked = true ∧
    (State.reset.err.locked = false ∧ 64 < (65 : Byte).toNat) ∧ State.reset.hs ≠ .hmsg ∧
    ((inHs .hmsg).err.locked = false ∧ (64 : Byte).toNat ≤ 64 ∧ (inHs .hmsg).hs = .hmsg) ∧
    (fieldOp 0x00010013 = 0x13 ∧ (0x00010013 : Word) >>> 16 ≠ 0) := by decide

theorem witness_HmacFinalPublishesTheMac : lockedBlock.err.locked = true ∧
    (State.reset.err.locked = false ∧ State.reset.hs ≠ .hmsg) ∧
    ((inHs .hmsg).err.locked = false ∧ (inHs .hmsg).hs = .hmsg) ∧
    (fieldOp 0x00000114 = 0x14 ∧ (0x00000114 : Word) ≠ 0x00000014) := by decide

/-- A comparison of three bytes, one byte of each side fed. -/
def midCompare : State := comparing { CmpRegs.reset with lenA := 3, lenB := 3, remain := 2, cs := .active }

theorem witness_CmpBeginChecksTheLengths : lockedBlock.err.locked = true ∧
    (midCompare.err.locked = false ∧ midCompare.cmp.cs = .active) ∧
    (State.reset.err.locked = false ∧ State.reset.cmp.cs ≠ .active ∧
      State.reset.cmp.lenA = State.reset.cmp.lenB) ∧
    (∃ s : State, s.err.locked = false ∧ s.cmp.cs ≠ .active ∧ s.cmp.lenA ≠ s.cmp.lenB) ∧
    (fieldOp 0x00000120 = 0x20 ∧ (0x00000120 : Word) ≠ 0x00000020) :=
  ⟨by decide, by decide, by decide,
    ⟨comparing { CmpRegs.reset with lenA := 3, lenB := 4 }, by decide⟩, by decide⟩

theorem witness_CmpFeedAccumulatesNPairs : lockedBlock.err.locked = true ∧
    (State.reset.err.locked = false ∧ 64 < (65 : Byte).toNat ∧ State.reset.cmp.cs ≠ .active) ∧
    (midCompare.err.locked = false ∧ midCompare.cmp.cs = .active ∧
      midCompare.cmp.remain.toNat < (3 : Byte).toNat ∧ (2 : Byte).toNat ≤ midCompare.cmp.remain.toNat) ∧
    (fieldOp 0x00010021 = 0x21 ∧ (0x00010021 : Word) >>> 16 ≠ 0) := by decide

theorem witness_CmpEndGivesTheVerdict : lockedBlock.err.locked = true ∧
    (State.reset.err.locked = false ∧ State.reset.cmp.cs = .idle) ∧
    (midCompare.err.locked = false ∧ midCompare.cmp.cs = .active ∧ midCompare.cmp.remain ≠ 0) ∧
    ((comparing { CmpRegs.reset with cs := .active }).cmp.remain = 0 ∧
      (comparing { CmpRegs.reset with cs := .active }).err.locked = false) ∧
    ((comparing { CmpRegs.reset with cs := .done }).cmp.cs = .done ∧
      (comparing { CmpRegs.reset with cs := .done }).err.locked = false) ∧
    (fieldOp 0x00000122 = 0x22 ∧ (0x00000122 : Word) ≠ 0x00000022) := by decide

theorem witness_AbsorbPlacesAndCountsOneByte : Datapath.reset.blen.toNat < 63 ∧
    ({ Datapath.reset with blen := 62 } : Datapath).blen.toNat < 63 ∧
    ({ Datapath.reset with blen := 63 } : Datapath).blen.toNat = 63 := by decide

theorem witness_KeyByteHoldsThenHashes : ((inHs .hkey).hs = .hkey ∧ (inHs .hkey).mac.klen.toNat < 64) ∧
    (keyHeld.hs = .hkey ∧ 64 ≤ keyHeld.mac.klen.toNat) ∧ keyHashing.hs ≠ .hkey := by decide

theorem witness_FirstFailingCheckIsReported :
    (State.reset.err.locked = false ∧ opcodeMap.all (fun r => !r.accepts 0x00000004) = true) ∧
    (Reference.firstError (.shaUpdate 65) State.reset = some .badLen ∧
      Reference.firstError (.hmacBegin 0) State.reset = some .unsupportedAlg ∧
      Reference.firstError .cmpEnd State.reset = some .sequence ∧
      Reference.firstError (.cmpFeed 3) midCompare = some .badLen ∧
      Reference.firstError .cmpEnd midCompare = some .cmpIncomplete) ∧
    Reference.firstError .shaInit State.reset = none := by decide

theorem witness_LockedBlockIgnoresCommands : lockedBlock.err.locked = true ∧
    (0x000001FF : Word) ≠ 0x000000FF ∧ Instr.nop ≠ .softReset ∧ (0x18 : Offset) ≠ 0x14 ∧
    ((0x20 : Offset) ≠ 0x08 ∧ (0x20 : Offset) ≠ 0x0C ∧ (0x20 : Offset) ≠ 0x10) := by decide

theorem witness_OnlyResetLeavesTheLock : lockedBlock.err.locked = true ∧
    (∃ t, step lockedBlock = .next t) ∧ (∃ t, step (lockedBlock.withPort [.hardReset]) = .next t) ∧
    (∃ t, step (lockedBlock.withPort [.write 0x14 4 0xFF]) = .next t) :=
  ⟨rfl, ⟨_, rfl⟩, ⟨_, rfl⟩, ⟨_, rfl⟩⟩

theorem witness_ErrorsArePreciseAndSynchronous :
    (pending (.write 0x14 4 0x00000302)).err.locked = false ∧
    ∃ t, step (pending (.write 0x14 4 0x00000302)) = .next t ∧ t.err.locked = true :=
  ⟨rfl, _, rfl, by decide⟩

theorem witness_ErrorCodesNameTheirCauses : State.reset.err.locked = false ∧
    (∃ t, exec (.shaUpdate 65) State.reset = .next t ∧ t.err.code = .badLen ∧ t.err.locked = true) ∧
    (∃ t, exec (.hmacBegin 0) State.reset = .next t ∧ t.err.code = .unsupportedAlg) ∧
    (∃ t, exec .cmpEnd State.reset = .next t ∧ t.err.code = .sequence) ∧
    (∃ t, exec .cmpEnd midCompare = .next t ∧ t.err.code = .cmpIncomplete) ∧
    (∃ t, serveCommand 0x00000004 State.reset = .next t ∧ t.err.code = .illegalCmd) :=
  ⟨rfl, ⟨_, rfl, by decide⟩, ⟨_, rfl, by decide⟩, ⟨_, rfl, by decide⟩, ⟨_, rfl, by decide⟩,
    ⟨_, rfl, by decide⟩⟩

theorem witness_BusErrorsChangeNothing : (pending (.read 0x40 1)).port = [.read 0x40 1] ∧
    (1 : Nat) ≠ 4 ∧ (pending (.read 0x42 4)).port = [.read 0x42 4] ∧ (0x42 : Offset).toNat % 4 ≠ 0 ∧
    (pending (.write 0x16 4 1)).port = [.write 0x16 4 1] ∧ (0x16 : Offset).toNat % 4 ≠ 0 := by decide

theorem witness_RegisterMapReadsAndWrites : 0xC4 ≤ (0xC4 : Offset).toNat ∧ 0xC4 ≤ (0xFF : Offset).toNat ∧
    (7 < 8 ∧ 15 < 16 ∧ 63 < 64) ∧ ((0x10 : Offset).toNat % 4 = 0 ∧ (0x10 : Offset).toNat < 0x14) ∧
    (0x20 ≤ (0x3C : Offset).toNat ∧ (0x3C : Offset).toNat < 0x40) ∧ 0xC0 ≤ (0xFC : Offset).toNat := by
  decide

theorem witness_ReadReturnsTheLastWrite : (0x18 : Offset).toNat % 4 = 0 ∧ (0x1C : Offset) ≠ 0x18 ∧
    (0x40 ≤ (0x40 : Offset).toNat ∧ (0xBC : Offset).toNat < 0xC0) ∧ (0xBC : Offset).toNat % 4 = 0 ∧
    (0x18 : Offset) ≠ 0x14 := by decide

theorem witness_StepRunsTheDecodedCommand :
    (pending (.write 0x14 4 0x00000001)).port = [.write 0x14 4 0x00000001] ∧
    decode 0x00000001 = .ok .shaInit := by decide

theorem witness_StepServesExactlyOneEvent : State.reset.port = [] ∧
    ((pending (.read 0xFC 4)).port = [.read 0xFC 4] ∧ (0xFC : Offset).toNat % 4 = 0) ∧
    ((pending (.write 0xBC 4 1)).port = [.write 0xBC 4 1] ∧ (0xBC : Offset).toNat % 4 = 0) ∧
    (pending .hardReset).port = [.hardReset] := by decide

theorem witness_ResetSetsEveryElement : (lockedBlock.withPort [.hardReset]).port = [.hardReset] ∧
    (0xFC : Offset).toNat % 4 = 0 := by decide

/-- Two states that differ in hidden registers only: H, LEN, KEY and ACC. -/
theorem witness_HiddenStateIsNeverReadable :
    State.sameVisible State.reset (((State.reset.withDp { Datapath.reset with h := h0Rom, len := 8 }).withMac
      { MacRegs.reset with key := Vector.replicate 64 0x5c }).withCmp { CmpRegs.reset with acc := 7 }) :=
  ⟨rfl, rfl, rfl, rfl, rfl, rfl, rfl, rfl, rfl, rfl, rfl, rfl, rfl, rfl⟩

theorem witness_WindowDecodesItsOwnAddresses : ∃ addr off, Config.windowOffset addr = some off :=
  ⟨Config.base, 0, by simp [Config.windowOffset]⟩

theorem witness_EveryStepKeepsTheInvariants : keyHeld.Inv ∧ longKeyMsg.Inv ∧
    longKeyMsg.mac.klen = 65 ∧ ∃ t, step keyHeld = .next t :=
  ⟨keyHeld_inv, longKeyMsg_inv, rfl, _, rfl⟩

theorem witness_EveryStepKeepsLengthsInAgreement : (inHs .sha).lengthsAgree ∧
    ∃ t, step (inHs .sha) = .next t := ⟨by unfold State.lengthsAgree; decide, _, rfl⟩

theorem witness_HashStateFollowsTheTable : keyHeld.Inv ∧ keyHeld.err.locked = false ∧
    (∃ t, exec (.hmacKey 0) keyHeld = .next t) ∧ Reference.firstError (.hmacKey 0) keyHeld = none ∧
    (∃ t, exec .shaInit keyHeld = .next t) ∧ Reference.firstError .shaInit keyHeld = some .sequence :=
  ⟨keyHeld_inv, rfl, ⟨_, rfl⟩, by decide, ⟨_, rfl⟩, by decide⟩

theorem witness_UnitsAreIndependent : Instr.cmpBegin ≠ .softReset ∧
    (∃ t, exec .cmpBegin State.reset = .next t) ∧ (∃ t, exec .shaInit State.reset = .next t) ∧
    (∃ t, exec .hmacKeyend keyHeld = .next t) ∧ (0x44 : Offset) ≠ 0x08 :=
  ⟨by decide, ⟨_, rfl⟩, ⟨_, rfl⟩, ⟨_, rfl⟩, by decide⟩

theorem witness_CompressionsPerCommandAreFixed : shaStarted.Inv ∧ shaStarted.err.locked = false ∧
    Instr.shaUpdate 64 ≠ .softReset ∧ Reference.firstError (.shaUpdate 64) shaStarted = none ∧
    ∃ t, exec (.shaUpdate 64) shaStarted = .next t :=
  ⟨shaStarted_inv, rfl, by decide, by decide, _, rfl⟩

/-- Two states that differ in W and RC. -/
theorem witness_ScratchRegistersAreNeverObserved : State.sameButScratch State.reset
    (State.reset.withDp (Datapath.reset.withScratch (Vector.replicate 64 1) ⟨1, 2, 3, 4, 5, 6, 7, 8⟩ 5)) :=
  rfl

theorem witness_AbsorbingDependsOnlyOnTheBytes :
    (shaStarted.err.locked = false ∧ (64 : Byte).toNat ≤ 64 ∧ shaStarted.hs = .sha ∧
      shaStarted.dp.Absorbed []) ∧
    (emptyKeyMsg.err.locked = false ∧ emptyKeyMsg.MessageAbsorbed [] []) :=
  ⟨⟨rfl, by decide, rfl, absorbed_nothing⟩, witness_message_absorbed⟩

theorem witness_ComparisonVerdictIsEquality :
    (State.reset.err.locked = false ∧ State.reset.cmp.cs ≠ .active ∧
      State.reset.cmp.lenA = State.reset.cmp.lenB) ∧
    (midCompare.err.locked = false ∧ midCompare.Compared 3 [0x61] [0x61] ∧ [0x61].length + 2 ≤ 3) ∧
    (comparing { CmpRegs.reset with cs := .active }).Compared 0 [] [] ∧
    (∃ s : State, s.err.locked = false ∧ s.cmp.cs ≠ .active ∧ s.cmp.lenA ≠ s.cmp.lenB) :=
  ⟨by decide, ⟨rfl, ⟨by decide, by decide, by decide, by decide⟩, by decide⟩,
    ⟨by decide, by decide, by decide, by decide⟩,
    ⟨comparing { CmpRegs.reset with lenA := 3, lenB := 4 }, by decide⟩⟩

theorem witness_HostHashIsSha256 : (State.reset.err.locked = false ∧ State.reset.hs.quiescent = true ∧
      (inHs .hmacDone).hs.quiescent = true) ∧
    (lockedBlock.err.locked = true ∧ lockedBlock.err.code ≠ .unsupportedAlg) ∧
    ((inHs .sha).err.locked = false ∧ (inHs .sha).hs.quiescent = false) ∧
    (lockedByAlg.err.locked = true ∧ lockedByAlg.err.code = .unsupportedAlg) := by decide

theorem witness_HostHmacIsHmac : (State.reset.err.locked = false ∧ State.reset.hs.quiescent = true) ∧
    (0x00 : Byte) ≠ 0x01 ∧
    (lockedByAlg.err.locked = true ∧ lockedByAlg.err.code = .unsupportedAlg) ∧
    (lockedBlock.err.locked = true ∧ lockedBlock.err.code ≠ .unsupportedAlg) ∧
    ((inHs .hmsg).err.locked = false ∧ (inHs .hmsg).hs.quiescent = false) := by decide

theorem witness_HostComparisonIsEquality : (State.reset.err.locked = false ∧
      State.reset.cmp.cs ≠ .active) ∧ ([0x61] : List Byte).length < 2 ^ 32 ∧
    (lockedBlock.err.locked = true ∧ lockedBlock.err.code ≠ .unsupportedAlg) ∧
    ((comparing { CmpRegs.reset with cs := .active }).err.locked = false ∧
      (comparing { CmpRegs.reset with cs := .active }).cmp.cs = .active) ∧
    (lockedByAlg.err.locked = true ∧ lockedByAlg.err.code = .unsupportedAlg) := by decide

theorem witness_SignThenUnsignReturnsTheMessage : State.reset.err.locked = false ∧
    State.reset.hs.quiescent = true ∧ State.reset.cmp.cs ≠ .active ∧ ['k'] ≠ [] := by decide

/-- Section 8's row sign("", "k"): unsign accepts it and returns the empty message. -/
theorem witness_UnsignAcceptsOnlySignedValues :
    (Boundary.unsign ".i7mQxAp9YcuXWXqUISUCW+UKyL63RDbjc1uYiTp/ZiA".toList ['k'] State.reset).2 =
      .ok (some []) := by
  decide +kernel

theorem witness_UnsignAcceptsOnlySignedValues_null :
    (State.reset.err.locked = true → State.reset.err.code ≠ .unsupportedAlg) ∧
    (lockedBlock.err.locked = true → lockedBlock.err.code ≠ .unsupportedAlg) ∧
    State.reset.err.locked = false ∧ State.reset.hs.quiescent = true ∧
    State.reset.cmp.cs ≠ .active ∧ ['k'] ≠ [] ∧
    Boundary.beforeLastDot ['a', '.', 'b'] = some ['a'] := by decide

theorem witness_UnsignAcceptsOnlySignedValues_failures : '.' ∉ ['a', 'b'] ∧ ['k'] ≠ [] ∧
    (lockedBlock.err.locked = true ∧ lockedBlock.err.code ≠ .unsupportedAlg) ∧
    ((inHs .hkey).err.locked = false ∧ (inHs .hkey).hs.quiescent = false) ∧
    Boundary.beforeLastDot ['a', '.', 'b'] = some ['a'] ∧
    (lockedByAlg.err.locked = true ∧ lockedByAlg.err.code = .unsupportedAlg) := by decide

theorem witness_SignatureShapes : (List.replicate 32 (0xFF : Byte)).length = 32 := by decide

end Sys2Proof.Tests
end

section
/-!
Laws of the commands: the checks and the effect of each, and with them everything that executing a
command, writing a register or serving a bus event can do to the state.
-/

namespace Sys2Proof.Machine

/-! ### A command is its checks and its effect (rules R262, R263) -/

/-- The checks of a command, in the order of rule R262: the error each raises, and whether it fails. -/
def checksOf : Instr → State → List (ErrCode × Bool)
  | .nop, _ => []
  | .shaInit, s => [badSequence s.hs.quiescent]
  | .shaUpdate n, s => [badCount n, badSequence (s.hs == .sha)]
  | .shaFinal, s => [badSequence (s.hs == .sha)]
  | .hmacBegin alg, s => [(.unsupportedAlg, !legalAlg alg), badSequence s.hs.quiescent]
  | .hmacKey n, s => [badCount n, badSequence s.hs.keying]
  | .hmacKeyend, s => [badSequence s.hs.keying]
  | .hmacMsg n, s => [badCount n, badSequence (s.hs == .hmsg)]
  | .hmacFinal, s => [badSequence (s.hs == .hmsg)]
  | .cmpBegin, s => [badSequence (s.cmp.cs != .active)]
  | .cmpFeed n, s =>
      [badCount n, badSequence (s.cmp.cs == .active),
        (.badLen, decide (s.cmp.remain.toNat < n.toNat))]
  | .cmpEnd, s =>
      [badSequence (s.cmp.cs != .idle),
        (.cmpIncomplete, s.cmp.cs == .active && s.cmp.remain != 0)]
  | .softReset, _ => []

/-- What a command does when no check fails. -/
def effectOf : Instr → State → State
  | .nop, s => s
  | .shaInit, s =>
      ((s.withDout (Vector.replicate 32 0)).withDp s.dp.coreInit).withHs .sha
  | .shaUpdate n, s => s.withDp (s.dp.absorbAll (firstBytes n s.data))
  | .shaFinal, s => ((s.withDout s.dp.finalDigest).withDp s.dp.finalized).withHs .shaDone
  | .hmacBegin _, s =>
      ((s.withDout (Vector.replicate 32 0)).withMac
        ⟨Vector.replicate 64 0, 0, Vector.replicate 32 0⟩).withHs .hkey
  | .hmacKey n, s => keyBytes (firstBytes n s.data) s
  | .hmacKeyend, s => startInner (normalizeKey s)
  | .hmacMsg n, s => s.withDp (s.dp.absorbAll (firstBytes n s.data))
  | .hmacFinal, s => publishMac (absorbOuter (finishInner s))
  | .cmpBegin, s => s.withCmp (beginCompare s.cmp)
  | .cmpFeed n, s => s.withCmp { s.cmp with
      acc := accumulate s.cmp.acc (feedPairs n s)
      remain := s.cmp.remain - n.setWidth 32 }
  | .cmpEnd, s => s.withCmp (endCompare s.cmp)
  | .softReset, s => resetBlock s

/-- Every command but SOFT_RESET is its checks, then its effect, in the frame of `runCommand`. -/
theorem exec_eq_runCommand {i : Instr} (h : i ≠ .softReset) (s : State) :
    exec i s = runCommand i (checksOf i s) (effectOf i s) s := by
  cases i with
  | softReset => exact absurd rfl h
  | _ => rfl

theorem exec_softReset (s : State) : exec .softReset s = .next (effectOf .softReset s) := rfl

/-- Everything a command can do: nothing, the error entry of a failing check, or its effect. -/
theorem exec_cases (i : Instr) (s : State) :
    exec i s = .next s ∨
    (∃ code, firstFailing (checksOf i s) = some code ∧
      exec i s = .next (raiseErr code (encode i) s)) ∨
    (firstFailing (checksOf i s) = none ∧ exec i s = .next (effectOf i s)) := by
  by_cases hi : i = .softReset
  · subst hi
    exact .inr (.inr ⟨rfl, exec_softReset s⟩)
  · rw [exec_eq_runCommand hi]
    obtain ⟨-, h⟩ | ⟨-, code, hc, h⟩ | ⟨-, hc, h⟩ :=
      runCommand_cases i (checksOf i s) (effectOf i s) s
    · exact .inl h
    · exact .inr (.inl ⟨code, hc, h⟩)
    · exact .inr (.inr ⟨hc, h⟩)

/-! ### An error names a code and a command word (rules R261, R263) -/

/-- The error reported is that of a check in the list. -/
theorem mem_of_firstFailing {checks : List (ErrCode × Bool)} {code : ErrCode}
    (h : firstFailing checks = some code) : (code, true) ∈ checks := by
  induction checks with
  | nil => simp at h
  | cons check rest ih =>
    obtain ⟨c, fails⟩ := check
    cases fails with
    | true => simp_all
    | false => exact List.mem_cons_of_mem _ (ih (by simpa using h))

/-- A command has its effect when no check of the list fails. -/
theorem firstFailing_eq_none_iff (checks : List (ErrCode × Bool)) :
    firstFailing checks = none ↔ ∀ check ∈ checks, check.2 = false := by
  induction checks with
  | nil => simp
  | cons check rest ih =>
    obtain ⟨code, fails⟩ := check
    cases fails <;> simp [ih]

/-- Where no check fails, the command is legal in the current state (rule R262). -/
theorem legal_of_firstFailing {checks : List (ErrCode × Bool)} {legal : Bool}
    (h : firstFailing checks = none) (hmem : badSequence legal ∈ checks) : legal = true := by
  simpa using (firstFailing_eq_none_iff checks).mp h _ hmem

/-- No check reports the code of "no error" (rule R261). -/
theorem code_ne_none_of_firstFailing {i : Instr} {s : State} {code : ErrCode}
    (h : firstFailing (checksOf i s) = some code) : code ≠ .none := by
  have hmem := mem_of_firstFailing h
  rintro rfl
  cases i <;> simp [checksOf] at hmem

/-- The encoding of every command is a word of its row (rule R94). -/
theorem encode_matchesRow (i : Instr) : Laws.MatchesRow.Statement i := by
  cases i with
  | nop => exact Laws.MatchesRow.nop
  | shaInit => exact Laws.MatchesRow.shaInit
  | shaUpdate n => exact Laws.MatchesRow.shaUpdate n
  | shaFinal => exact Laws.MatchesRow.shaFinal
  | hmacBegin alg => exact Laws.MatchesRow.hmacBegin alg
  | hmacKey n => exact Laws.MatchesRow.hmacKey n
  | hmacKeyend => exact Laws.MatchesRow.hmacKeyend
  | hmacMsg n => exact Laws.MatchesRow.hmacMsg n
  | hmacFinal => exact Laws.MatchesRow.hmacFinal
  | cmpBegin => exact Laws.MatchesRow.cmpBegin
  | cmpFeed n => exact Laws.MatchesRow.cmpFeed n
  | cmpEnd => exact Laws.MatchesRow.cmpEnd
  | softReset => exact Laws.MatchesRow.softReset

/-- Only NOP has the command word 0: every other row matches a non-zero word (rules R94, R250). -/
theorem encode_ne_zero {i : Instr} (h : i ≠ .nop) : encode i ≠ 0 := by
  intro (h0 : encode i = 0#32)
  have hrow := encode_matchesRow i
  rw [Laws.MatchesRow.Statement, h0, BitVec.zero_and] at hrow
  cases i with
  | nop => exact h rfl
  | _ => exact absurd hrow (by simp [Laws.MatchesRow.rowBits])

/-- A command that reports an error has a non-zero word: NOP has no check. -/
theorem encode_ne_zero_of_firstFailing {i : Instr} {s : State} {code : ErrCode}
    (h : firstFailing (checksOf i s) = some code) : encode i ≠ 0 := by
  apply encode_ne_zero
  rintro rfl
  simp [checksOf] at h

/-- The word 0 is NOP's, so an illegal word is not 0 (rules R97, R250). -/
theorem ne_zero_of_decode_error {c : Word} {e : IllegalWord} (h : decode c = .error e) : c ≠ 0 := by
  rintro rfl
  have hnop : decode 0 = .ok .nop := by decide
  rw [hnop] at h
  cases h

/-! ### key_byte, case by case (rule R182) -/

theorem keyByte_held (b : Byte) {s : State} (hkey : s.hs = .hkey) (hroom : s.mac.klen.toNat < 64) :
    keyByte b s = s.withMac { s.mac with
      key := s.mac.key.setIfInBounds s.mac.klen.toNat b, klen := s.mac.klen + 1 } := by
  simp [keyByte, hkey, hroom]

theorem keyByte_overflows (b : Byte) {s : State} (hkey : s.hs = .hkey)
    (hfull : ¬ s.mac.klen.toNat < 64) :
    keyByte b s = ((s.withDp ((s.dp.coreInit.absorbAll s.mac.key.toList).absorb b)).withMac
      { s.mac with key := Vector.replicate 64 0, klen := 65 }).withHs .hkeyh := by
  simp [keyByte, hkey, hfull]

theorem keyByte_hashed (b : Byte) {s : State} (hkey : s.hs ≠ .hkey) :
    keyByte b s = s.withDp (s.dp.absorb b) := by
  simp [keyByte, hkey]

/-! ### Normalizing the key (rule R184) -/

/-- Normalizing the key writes the datapath and KEY only. -/
theorem normalizeKey_frame (s : State) :
    ∃ d k, normalizeKey s = (s.withMac { s.mac with key := k }).withDp d := by
  unfold normalizeKey
  split
  · exact ⟨_, _, rfl⟩
  · exact ⟨s.dp, s.mac.key, rfl⟩

/-! ### What a write can do -/

/-- Everything a write to CMD can do: nothing, an error entry with a code and a non-zero word, or the
effect of a command whose checks pass. -/
theorem serveCommand_cases (c : Word) (s : State) :
    serveCommand c s = .next s ∨
    (∃ code w, code ≠ ErrCode.none ∧ w ≠ 0 ∧ serveCommand c s = .next (raiseErr code w s)) ∨
    (∃ i, firstFailing (checksOf i s) = none ∧ serveCommand c s = .next (effectOf i s)) := by
  cases hl : s.err.locked with
  | true =>
    by_cases hc : c = 0x000000FF
    · exact .inr (.inr ⟨.softReset, rfl, by simp [serveCommand, hl, hc, exec_softReset]⟩)
    · have hword : ¬ c = 255#32 := hc
      exact .inl (by simp [serveCommand, hl, hword])
  | false =>
    cases hd : decode c with
    | error e =>
      exact .inr (.inl ⟨.illegalCmd, c, by decide, ne_zero_of_decode_error hd,
        by simp [serveCommand, hl, hd]⟩)
    | ok i =>
      have hserve : serveCommand c s = exec i s := by simp [serveCommand, hl, hd]
      rw [hserve]
      obtain h | ⟨code, hf, h⟩ | ⟨hf, h⟩ := exec_cases i s
      · exact .inl h
      · exact .inr (.inl ⟨code, encode i, code_ne_none_of_firstFailing hf,
          encode_ne_zero_of_firstFailing hf, h⟩)
      · exact .inr (.inr ⟨i, hf, h⟩)

/-- A register write stores into the declared lengths, DATA or DATB, and touches nothing else
(rule R63). -/
theorem regWrite_cases (off : Offset) (v : Word) (s : State) :
    (∃ a b, regWrite off v s = s.withCmp { s.cmp with lenA := a, lenB := b }) ∨
    (∃ x, regWrite off v s = s.withData x) ∨ (∃ x, regWrite off v s = s.withDatb x) := by
  unfold regWrite
  split_ifs
  · exact .inl ⟨v, s.cmp.lenB, rfl⟩
  · exact .inl ⟨s.cmp.lenA, v, rfl⟩
  · exact .inr (.inl ⟨_, rfl⟩)
  · exact .inr (.inr ⟨_, rfl⟩)
  · exact .inr (.inl ⟨s.data, rfl⟩)

@[simp] theorem regWrite_dp (off : Offset) (v : Word) (s : State) : (regWrite off v s).dp = s.dp := by
  obtain ⟨a, b, h⟩ | ⟨x, h⟩ | ⟨x, h⟩ := regWrite_cases off v s <;> rw [h] <;> rfl

/-! ### What every step keeps -/

/-- A predicate that everything a bus event can do to the state keeps. -/
structure KeptByEvents (P : State → Prop) : Prop where
  /-- Taking an event from the port. -/
  port : ∀ s events, P s → P (s.withPort events)
  /-- Answering an access. -/
  respond : ∀ r s, P s → P (respond r s)
  /-- Writing a register other than CMD. -/
  register : ∀ off v s, P s → P (regWrite off v s)
  /-- Entering an error. -/
  raise : ∀ code c s, code ≠ .none → c ≠ 0 → P s → P (raiseErr code c s)
  /-- The effect of a command whose checks pass; SOFT_RESET's is the block's reset. -/
  effect : ∀ i s, firstFailing (checksOf i s) = none → P s → P (effectOf i s)

section
variable {P : State → Prop} (hP : KeptByEvents P)
include hP

theorem KeptByEvents.busWrite {off : Offset} {v : Word} {s : State} (h : P s) :
    ∃ t, busWrite off v s = .next t ∧ P t := by
  by_cases hoff : off = offCmd
  · subst hoff
    rw [busWrite_command]
    obtain hs | ⟨code, w, hcode, hw, hs⟩ | ⟨i, hi, hs⟩ := serveCommand_cases v s
    · exact ⟨_, hs, h⟩
    · exact ⟨_, hs, hP.raise code w s hcode hw h⟩
    · exact ⟨_, hs, hP.effect i s hi h⟩
  · exact ⟨_, busWrite_register off v s hoff, hP.register off v s h⟩

theorem KeptByEvents.serve {e : BusEvent} {s : State} (h : P s) :
    ∃ t, serve e s = .next t ∧ P t := by
  cases e with
  | read off size =>
    cases ha : accepted off size with
    | true => exact ⟨_, serve_read_accepted off size s ha, hP.respond _ s h⟩
    | false => exact ⟨_, by simp [Machine.serve, ha], hP.respond (.readError 0) s h⟩
  | write off size v =>
    cases ha : accepted off size with
    | true =>
      obtain ⟨t, ht, hPt⟩ := hP.busWrite (off := off) (v := v) h
      exact ⟨_, by rw [serve_write_accepted off size v s ha, ht, answer_next],
        hP.respond .written t hPt⟩
    | false => exact ⟨_, by simp [Machine.serve, ha], hP.respond .writeError s h⟩
  | hardReset => exact ⟨_, rfl, hP.effect .softReset s rfl h⟩

theorem KeptByEvents.exists_step {s : State} (h : P s) : ∃ t, step s = .next t ∧ P t := by
  cases hport : s.port with
  | nil => exact ⟨s, step_nil s hport, h⟩
  | cons e rest =>
    rw [step_cons s e rest hport]
    exact hP.serve (hP.port s rest h)

/-- A predicate kept by everything an event can do is kept by every step. -/
theorem KeptByEvents.step {s t : State} (h : P s) (hstep : step s = .next t) : P t := by
  obtain ⟨u, hu, hPu⟩ := hP.exists_step h
  rw [hu] at hstep
  cases hstep
  exact hPu

end

end Sys2Proof.Machine
end

section
/-!
Laws of the datapath under the commands: what every command keeps of it, and that W, the working
variables and RC are overwritten before they are read.
-/

namespace Sys2Proof.Machine

/-! ### What the commands do to the datapath -/

/-! #### The datapath after each part of HMAC.KEYEND and HMAC.FINAL (rules R184, R186) -/

@[simp] theorem startInner_dp (s : State) :
    (startInner s).dp = s.dp.coreInit.absorbAll (padKey ipad s.mac.key) := rfl
@[simp] theorem finishInner_dp (s : State) : (finishInner s).dp = s.dp.finalized := rfl
@[simp] theorem absorbOuter_dp (s : State) : (absorbOuter s).dp =
    (s.dp.coreInit.absorbAll (padKey opad s.mac.key)).absorbAll s.mac.idig.toList := rfl
@[simp] theorem publishMac_dp (s : State) : (publishMac s).dp = s.dp.finalized := rfl

/-- A property that core_init, absorb, finalize and reset keep of the datapath. -/
structure KeptByDatapath (P : Datapath → Prop) : Prop where
  coreInit : ∀ d, P d → P d.coreInit
  absorb : ∀ b d, P d → P (d.absorb b)
  finalized : ∀ d, P d → P d.finalized
  reset : P .reset

section
variable {P : Datapath → Prop} (hP : KeptByDatapath P)
include hP

theorem KeptByDatapath.absorbAll (bytes : List Byte) {d : Datapath} (h : P d) :
    P (d.absorbAll bytes) :=
  List.foldlRecOn bytes _ h fun d hd b _ => hP.absorb b d hd

theorem KeptByDatapath.keyByte (b : Byte) {s : State} (h : P s.dp) : P (keyByte b s).dp := by
  obtain ⟨-, -, hs⟩ | ⟨-, -, hs⟩ | ⟨-, hs⟩ := keyByte_cases b s
  · simpa [hs] using h
  · simpa [hs] using hP.absorb b _ (hP.absorbAll _ (hP.coreInit _ h))
  · simpa [hs] using hP.absorb b _ h

theorem KeptByDatapath.keyBytes (bytes : List Byte) {s : State} (h : P s.dp) :
    P (keyBytes bytes s).dp :=
  List.foldlRecOn (motive := fun s : State => P s.dp) bytes _ h fun _ hs b _ => hP.keyByte b hs

theorem KeptByDatapath.normalizeKey {s : State} (h : P s.dp) : P (normalizeKey s).dp := by
  unfold Machine.normalizeKey
  split
  · exact hP.finalized _ h
  · exact h

/-- Every command's effect on the datapath is made of core_init, absorb, finalize and reset. -/
theorem KeptByDatapath.effectOf (i : Instr) {s : State} (h : P s.dp) : P (effectOf i s).dp := by
  cases i with
  | nop | hmacBegin | cmpBegin | cmpFeed | cmpEnd => exact h
  | shaInit => exact hP.coreInit _ h
  | shaUpdate | hmacMsg => exact hP.absorbAll _ h
  | shaFinal => exact hP.finalized _ h
  | hmacKey => exact hP.keyBytes _ h
  | hmacKeyend =>
    rw [Machine.effectOf, startInner_dp]
    exact hP.absorbAll _ (hP.coreInit _ (hP.normalizeKey h))
  | hmacFinal =>
    rw [Machine.effectOf, publishMac_dp, absorbOuter_dp, finishInner_dp]
    exact hP.finalized _ (hP.absorbAll _ (hP.absorbAll _ (hP.coreInit _ (hP.finalized _ h))))
  | softReset => exact hP.reset

end

/-! ### The round counter is 0 between commands (rule R24) -/

theorem Datapath.padByte_rc (b : Byte) {d : Datapath} (h : d.rc = 0) : (d.padByte b).rc = 0 := by
  by_cases hb : d.blen.toNat + 1 = 64
  · simp [Datapath.padByte_full b d hb]
  · rw [Datapath.padByte_partial b d hb]
    exact h

theorem Datapath.absorb_rc (b : Byte) {d : Datapath} (h : d.rc = 0) : (d.absorb b).rc = 0 :=
  Datapath.padByte_rc b (d := { d with len := d.len + 8 }) h

theorem Datapath.padZeros_rc (turns : Nat) {d : Datapath} (h : d.rc = 0) :
    (Datapath.padZeros turns d).rc = 0 := by
  induction turns generalizing d with
  | zero => exact h
  | succ turns ih =>
    rw [Datapath.padZeros]
    split
    · exact h
    · exact ih (Datapath.padByte_rc _ h)

theorem Datapath.padAll_rc (bytes : List Byte) {d : Datapath} (h : d.rc = 0) :
    (d.padAll bytes).rc = 0 :=
  List.foldlRecOn (motive := fun d : Datapath => d.rc = 0) bytes _ h
    fun _ hd b _ => Datapath.padByte_rc b hd

theorem Datapath.finalized_rc {d : Datapath} (h : d.rc = 0) : d.finalized.rc = 0 := by
  rw [Datapath.finalized, Datapath.zeroise_rc, Datapath.padMessage]
  exact Datapath.padAll_rc _ (Datapath.padZeros_rc _ (Datapath.padByte_rc _ h))

theorem keptByDatapath_rc_zero : KeptByDatapath fun d => d.rc = 0 where
  coreInit _ h := h
  absorb b _ h := Datapath.absorb_rc b h
  finalized _ h := Datapath.finalized_rc h
  reset := rfl

/-! ### LEN and BLEN agree (rules R26, R139, R140) -/

/-- LEN counts the buffered bits modulo a block: what `State.lengthsAgree` says of the datapath. -/
def Datapath.lengthsAgree (d : Datapath) : Prop := d.len.toNat % 512 = 8 * d.blen.toNat

theorem State.lengthsAgree_iff (s : State) : s.lengthsAgree ↔ s.dp.lengthsAgree := Iff.rfl

/-- A byte adds 8 to LEN and 1 to BLEN, and both wrap at a block: 512 divides 2^64. -/
theorem Datapath.absorb_lengthsAgree (b : Byte) {d : Datapath} (h : d.lengthsAgree) :
    (d.absorb b).lengthsAgree := by
  unfold Datapath.lengthsAgree at h ⊢
  rw [Datapath.absorb_len, Datapath.absorb_blen, BitVec.toNat_add]
  have h8 : (8 : DWord).toNat = 8 := rfl
  have hblen := d.blen.isLt
  omega

theorem keptByDatapath_lengthsAgree : KeptByDatapath Datapath.lengthsAgree where
  coreInit _ _ := rfl
  absorb b _ h := Datapath.absorb_lengthsAgree b h
  finalized d _ := by simp [Datapath.lengthsAgree, Datapath.finalized]
  reset := rfl

/-! ### The schedule does not depend on what W held (rules R131, R132) -/

/-- Two schedules with the same first `n` words. -/
def sameBelow (n : Nat) (w x : Vector Word 64) : Prop := ∀ j, j < n → w.getD j 0 = x.getD j 0

/-- Reading an element of a register array after an element is written. -/
theorem getD_setIfInBounds {α : Type} {n : Nat} (v : Vector α n) (i j : Nat) (a fallback : α) :
    (v.setIfInBounds i a).getD j fallback = if i = j ∧ j < n then a else v.getD j fallback := by
  by_cases hj : j < n <;> simp [Vector.getD, hj, Array.getElem_setIfInBounds]

/-- Schedules with the same 64 words are equal. -/
theorem eq_of_sameBelow {w x : Vector Word 64} (h : sameBelow 64 w x) : w = x := by
  refine Vector.ext fun j hj => ?_
  simpa [Vector.getD, hj] using h j hj

/-- Writing the same word at the same place makes two schedules agree one word further. -/
theorem sameBelow_setIfInBounds {t : Nat} {w x : Vector Word 64} (a : Word)
    (h : sameBelow t w x) : sameBelow (t + 1) (w.setIfInBounds t a) (x.setIfInBounds t a) := by
  intro j hj
  rw [getD_setIfInBounds, getD_setIfInBounds]
  by_cases hlast : t = j ∧ j < 64
  · rw [if_pos hlast, if_pos hlast]
  · rw [if_neg hlast, if_neg hlast]
    by_cases hbelow : j < t
    · exact h j hbelow
    · have hout : ¬ j < 64 := by omega
      simp [Vector.getD, hout]

/-- Words written in order, each from the words before it, depend on the words before the first. -/
theorem sameBelow_foldl {f : Vector Word 64 → Nat → Word} (len : Nat) {start : Nat}
    (hf : ∀ t, start ≤ t → ∀ w x, sameBelow t w x → f w t = f x t) {w x : Vector Word 64}
    (h : sameBelow start w x) :
    sameBelow (start + len)
      ((List.range' start len).foldl (fun w t => w.setIfInBounds t (f w t)) w)
      ((List.range' start len).foldl (fun w t => w.setIfInBounds t (f w t)) x) := by
  induction len generalizing start w x with
  | zero => exact h
  | succ len ih =>
    have hnext : sameBelow (start + 1) (w.setIfInBounds start (f w start))
        (x.setIfInBounds start (f x start)) := by
      rw [hf start le_rfl w x h]
      exact sameBelow_setIfInBounds _ h
    have hrest := ih (fun t ht => hf t (by omega)) hnext
    rwa [show start + 1 + len = start + (len + 1) by omega] at hrest

/-- A word of the schedule is computed from the words before it (rule R132). -/
theorem scheduleWord_congr {t : Nat} (ht : 16 ≤ t) {w x : Vector Word 64} (h : sameBelow t w x) :
    scheduleWord w t = scheduleWord x t := by
  unfold scheduleWord
  rw [h (t - 16) (by omega), h (t - 15) (by omega), h (t - 7) (by omega), h (t - 2) (by omega)]

theorem formWords_sameBelow (b : Vector Byte 64) (w x : Vector Word 64) :
    sameBelow 16 (formWords b w) (formWords b x) := by
  unfold formWords
  rw [List.range_eq_range']
  exact sameBelow_foldl (f := fun _ j => formWord b j) 16 (start := 0) (fun _ _ _ _ _ => rfl)
    fun j hj => absurd hj (by omega)

/-- The whole schedule is a function of the block: what W held before does not matter. -/
theorem expandSchedule_formWords (b : Vector Byte 64) (w x : Vector Word 64) :
    expandSchedule (formWords b w) = expandSchedule (formWords b x) := by
  have h : sameBelow 64 (expandSchedule (formWords b w)) (expandSchedule (formWords b x)) :=
    sameBelow_foldl 48 (fun _ ht _ _ hwx => scheduleWord_congr ht hwx)
      (formWords_sameBelow b w x)
  exact eq_of_sameBelow h

/-! ### Datapaths that differ in scratch only (rules R22, R23, R24) -/

/-- Two datapaths that differ at most in W, a..h and RC: `State.sameButScratch` for the datapath. -/
def Datapath.sameButScratch (d e : Datapath) : Prop := e = d.withScratch e.w e.wv e.rc

theorem Datapath.sameButScratch_refl (d : Datapath) : d.sameButScratch d := rfl

/-- A compression overwrites all scratch before it reads it. -/
theorem Datapath.compress_withScratch (d : Datapath) (w : Vector Word 64) (wv : Working)
    (rc : BitVec 7) : (d.withScratch w wv rc).compress = d.compress := by
  have hschedule : (d.withScratch w wv rc).schedule = d.schedule := by
    simp only [Datapath.schedule_eq, Datapath.withScratch]
    rw [expandSchedule_formWords d.buf w d.w]
  rw [Datapath.compress, hschedule, Datapath.compress]

theorem Datapath.sameButScratch_withScratch (d : Datapath) (w : Vector Word 64) (wv : Working)
    (rc : BitVec 7) : d.sameButScratch (d.withScratch w wv rc) := rfl

theorem Datapath.exists_of_sameButScratch {d e : Datapath} (h : d.sameButScratch e) :
    ∃ w wv rc, e = d.withScratch w wv rc := ⟨e.w, e.wv, e.rc, h⟩

theorem Datapath.h_of_sameButScratch {d e : Datapath} (h : d.sameButScratch e) : e.h = d.h := by
  obtain ⟨w, wv, rc, rfl⟩ := Datapath.exists_of_sameButScratch h
  rfl

theorem Datapath.blen_of_sameButScratch {d e : Datapath} (h : d.sameButScratch e) :
    e.blen = d.blen := by
  obtain ⟨w, wv, rc, rfl⟩ := Datapath.exists_of_sameButScratch h
  rfl

theorem Datapath.len_of_sameButScratch {d e : Datapath} (h : d.sameButScratch e) :
    e.len = d.len := by
  obtain ⟨w, wv, rc, rfl⟩ := Datapath.exists_of_sameButScratch h
  rfl

theorem Datapath.sameButScratch_zeroise {d e : Datapath} (h : d.sameButScratch e) :
    d.zeroise.sameButScratch e.zeroise := by
  obtain ⟨w, wv, rc, rfl⟩ := Datapath.exists_of_sameButScratch h
  rfl

theorem Datapath.sameButScratch_coreInit {d e : Datapath} (h : d.sameButScratch e) :
    d.coreInit.sameButScratch e.coreInit := by
  obtain ⟨w, wv, rc, rfl⟩ := Datapath.exists_of_sameButScratch h
  rfl

theorem Datapath.sameButScratch_padByte (b : Byte) {d e : Datapath} (h : d.sameButScratch e) :
    (d.padByte b).sameButScratch (e.padByte b) := by
  obtain ⟨w, wv, rc, rfl⟩ := Datapath.exists_of_sameButScratch h
  by_cases hb : d.blen.toNat + 1 = 64
  · have hcompress := Datapath.compress_withScratch
      { d with buf := d.buf.setIfInBounds d.blen.toNat b } w wv rc
    rw [Datapath.padByte_full b d hb, Datapath.padByte_full b (d.withScratch w wv rc) hb,
      ← hcompress]
    exact Datapath.sameButScratch_refl _
  · rw [Datapath.padByte_partial b d hb, Datapath.padByte_partial b (d.withScratch w wv rc) hb]
    exact Datapath.sameButScratch_withScratch _ w wv rc

theorem Datapath.sameButScratch_absorb (b : Byte) {d e : Datapath} (h : d.sameButScratch e) :
    (d.absorb b).sameButScratch (e.absorb b) := by
  obtain ⟨w, wv, rc, rfl⟩ := Datapath.exists_of_sameButScratch h
  exact Datapath.sameButScratch_padByte b
    (Datapath.sameButScratch_withScratch { d with len := d.len + 8 } w wv rc)

theorem Datapath.sameButScratch_absorbAll (bytes : List Byte) {d e : Datapath}
    (h : d.sameButScratch e) : (d.absorbAll bytes).sameButScratch (e.absorbAll bytes) := by
  induction bytes generalizing d e with
  | nil => exact h
  | cons b bytes ih => exact ih (Datapath.sameButScratch_absorb b h)

theorem Datapath.sameButScratch_padAll (bytes : List Byte) {d e : Datapath}
    (h : d.sameButScratch e) : (d.padAll bytes).sameButScratch (e.padAll bytes) := by
  induction bytes generalizing d e with
  | nil => exact h
  | cons b bytes ih => exact ih (Datapath.sameButScratch_padByte b h)

theorem Datapath.sameButScratch_padZeros (turns : Nat) {d e : Datapath}
    (h : d.sameButScratch e) :
    (Datapath.padZeros turns d).sameButScratch (Datapath.padZeros turns e) := by
  induction turns generalizing d e with
  | zero => exact h
  | succ turns ih =>
    rw [Datapath.padZeros, Datapath.padZeros, Datapath.blen_of_sameButScratch h]
    split
    · exact h
    · exact ih (Datapath.sameButScratch_padByte 0x00 h)

theorem Datapath.sameButScratch_padMessage {d e : Datapath} (h : d.sameButScratch e) :
    d.padMessage.sameButScratch e.padMessage := by
  rw [Datapath.padMessage, Datapath.padMessage, Datapath.len_of_sameButScratch h]
  exact Datapath.sameButScratch_padAll _
    (Datapath.sameButScratch_padZeros 64 (Datapath.sameButScratch_padByte 0x80 h))

/-- finalize() returns the same digest. -/
theorem Datapath.finalDigest_of_sameButScratch {d e : Datapath} (h : d.sameButScratch e) :
    e.finalDigest = d.finalDigest := by
  rw [Datapath.finalDigest, Datapath.finalDigest,
    Datapath.h_of_sameButScratch (Datapath.sameButScratch_padMessage h)]

theorem Datapath.sameButScratch_finalized {d e : Datapath} (h : d.sameButScratch e) :
    d.finalized.sameButScratch e.finalized :=
  Datapath.sameButScratch_zeroise (Datapath.sameButScratch_padMessage h)

end Sys2Proof.Machine
end

section
/-!
What the bus can read: STATUS, and the visible state (obligations O39, O40).
-/

namespace Sys2Proof.Machine

/-! ### What the bus reads (rules R37, R40) -/

/-- A flag as a word has the flag in bit 0 and nothing above. -/
theorem getElem_flagWord (b : Bool) (j : Nat) (hj : j < 32) :
    (flagWord b)[j] = (decide (j = 0) && b) := by
  cases b <;> simp [flagWord, BitVec.getElem_one]

/-- A field of a word is the value whose bits the word has from the field's first bit on. -/
theorem extractLsb'_eq_of_getLsbD {start width : Nat} {c : Word} {x : BitVec width}
    (h : ∀ j, j < width → c.getLsbD (start + j) = x.getLsbD j) :
    c.extractLsb' start width = x := by
  ext j hj
  simpa [BitVec.getLsbD_eq_getElem hj] using h j hj

/-- Settles O39: STATUS bit by bit; the fields of rule R37 do not overlap, so each bit comes from one
field or from none. -/
theorem statusShowsEveryField : Obligations.StatusShowsEveryField := by
  refine ⟨by decide, fun s => ?_⟩
  have hlocked : s.status.getLsbD 0 = s.err.locked := by simp [State.status, getElem_flagWord]
  have heq : s.status.getLsbD 6 = s.cmp.eq := by simp [State.status, getElem_flagWord]
  have hreserved : s.status.getLsbD 7 = false := by simp [State.status, getElem_flagWord]
  refine ⟨hlocked, extractLsb'_eq_of_getLsbD ?hs, extractLsb'_eq_of_getLsbD ?cs, heq, hreserved,
    extractLsb'_eq_of_getLsbD ?blen, extractLsb'_eq_of_getLsbD ?reserved15,
    extractLsb'_eq_of_getLsbD ?klen, extractLsb'_eq_of_getLsbD ?reserved31⟩
  all_goals
    intro j hj
    interval_cases j <;> simp [State.status, getElem_flagWord]

/-- Settles O40: every register of the map is one of the visible ones. -/
theorem hiddenStateIsNeverReadable : Obligations.HiddenStateIsNeverReadable := by
  rintro s t off ⟨hlocked, hcode, hcmd, hhs, hcs, heq, hblen, hklen, hlenA, hlenB, hremain, hdout,
    hdata, hdatb⟩
  have hstatus : s.status = t.status := by
    simp only [State.status, hlocked, hhs, hcs, heq, hblen, hklen]
  have herrcode : s.errcodeWord = t.errcodeWord := by simp only [State.errcodeWord, hcode]
  simp only [busRead, regRead, hstatus, herrcode, hcmd, hlenA, hlenB, hdout, hdata, hdatb, hremain]

end Sys2Proof.Machine
end

section
/-!
No step observes the scratch registers W, a..h and RC (obligation O49).
-/

namespace Sys2Proof.Machine

/-! ### States that differ in scratch only (rules R22, R23, R24) -/

/-- Differing in scratch only is a matter of the datapath, if all else is equal. -/
theorem State.sameButScratch_of_dp {s t : State} (hdp : s.dp.sameButScratch t.dp)
    (hrest : t = s.withDp t.dp) : s.sameButScratch t := by
  rw [State.sameButScratch, ← hdp]
  exact hrest

theorem State.exists_of_sameButScratch {s t : State} (h : s.sameButScratch t) :
    ∃ e, s.dp.sameButScratch e ∧ t = s.withDp e :=
  ⟨_, Datapath.sameButScratch_withScratch s.dp _ _ _, h⟩

theorem State.responses_of_sameButScratch {s t : State} (h : s.sameButScratch t) :
    s.responses = t.responses := by
  obtain ⟨e, -, rfl⟩ := State.exists_of_sameButScratch h
  rfl

/-- Scratch is not visible. -/
theorem State.sameVisible_of_sameButScratch {s t : State} (h : s.sameButScratch t) :
    s.sameVisible t := by
  rw [h]
  constructor <;> rfl

theorem State.sameButScratch_withPort {s t : State} (h : s.sameButScratch t)
    (events : List BusEvent) : (s.withPort events).sameButScratch (t.withPort events) := by
  obtain ⟨e, he, rfl⟩ := State.exists_of_sameButScratch h
  exact State.sameButScratch_of_dp he rfl

theorem State.sameButScratch_respond {s t : State} (h : s.sameButScratch t) (r : Response) :
    (respond r s).sameButScratch (respond r t) := by
  obtain ⟨e, he, rfl⟩ := State.exists_of_sameButScratch h
  exact State.sameButScratch_of_dp he rfl

theorem State.sameButScratch_raiseErr {s t : State} (h : s.sameButScratch t) (code : ErrCode)
    (c : Word) : (raiseErr code c s).sameButScratch (raiseErr code c t) := by
  obtain ⟨e, he, rfl⟩ := State.exists_of_sameButScratch h
  exact State.sameButScratch_of_dp he rfl

theorem State.sameButScratch_regWrite {s t : State} (h : s.sameButScratch t) (off : Offset)
    (v : Word) : (regWrite off v s).sameButScratch (regWrite off v t) := by
  obtain ⟨e, he, rfl⟩ := State.exists_of_sameButScratch h
  unfold regWrite
  split_ifs <;> exact State.sameButScratch_of_dp he rfl

theorem State.sameButScratch_keyByte (b : Byte) {s t : State} (h : s.sameButScratch t) :
    (keyByte b s).sameButScratch (keyByte b t) := by
  obtain ⟨e, he, rfl⟩ := State.exists_of_sameButScratch h
  by_cases hkey : s.hs = .hkey
  · by_cases hroom : s.mac.klen.toNat < 64
    · rw [keyByte_held b hkey hroom, keyByte_held b (s := s.withDp e) hkey hroom]
      exact State.sameButScratch_of_dp he rfl
    · rw [keyByte_overflows b hkey hroom, keyByte_overflows b (s := s.withDp e) hkey hroom]
      exact State.sameButScratch_of_dp (Datapath.sameButScratch_absorb b
        (Datapath.sameButScratch_absorbAll _ (Datapath.sameButScratch_coreInit he))) rfl
  · rw [keyByte_hashed b hkey, keyByte_hashed b (s := s.withDp e) hkey]
    exact State.sameButScratch_of_dp (Datapath.sameButScratch_absorb b he) rfl

theorem State.sameButScratch_keyBytes (bytes : List Byte) {s t : State} (h : s.sameButScratch t) :
    (keyBytes bytes s).sameButScratch (keyBytes bytes t) := by
  induction bytes generalizing s t with
  | nil => exact h
  | cons b bytes ih => exact ih (State.sameButScratch_keyByte b h)

theorem State.sameButScratch_normalizeKey {s t : State} (h : s.sameButScratch t) :
    (normalizeKey s).sameButScratch (normalizeKey t) := by
  obtain ⟨e, he, rfl⟩ := State.exists_of_sameButScratch h
  unfold normalizeKey finishLongKey
  simp only [State.withDp_hs, State.withDp_mac, State.withDp_dp,
    Datapath.finalDigest_of_sameButScratch he]
  split_ifs
  · exact State.sameButScratch_of_dp (Datapath.sameButScratch_finalized he) rfl
  · exact State.sameButScratch_of_dp he rfl

theorem State.sameButScratch_startInner {s t : State} (h : s.sameButScratch t) :
    (startInner s).sameButScratch (startInner t) := by
  obtain ⟨e, he, rfl⟩ := State.exists_of_sameButScratch h
  exact State.sameButScratch_of_dp
    (Datapath.sameButScratch_absorbAll _ (Datapath.sameButScratch_coreInit he)) rfl

theorem State.sameButScratch_finishInner {s t : State} (h : s.sameButScratch t) :
    (finishInner s).sameButScratch (finishInner t) := by
  obtain ⟨e, he, rfl⟩ := State.exists_of_sameButScratch h
  unfold finishInner
  simp only [State.withDp_mac, State.withDp_dp, Datapath.finalDigest_of_sameButScratch he]
  exact State.sameButScratch_of_dp (Datapath.sameButScratch_finalized he) rfl

theorem State.sameButScratch_absorbOuter {s t : State} (h : s.sameButScratch t) :
    (absorbOuter s).sameButScratch (absorbOuter t) := by
  obtain ⟨e, he, rfl⟩ := State.exists_of_sameButScratch h
  exact State.sameButScratch_of_dp (Datapath.sameButScratch_absorbAll _
    (Datapath.sameButScratch_absorbAll _ (Datapath.sameButScratch_coreInit he))) rfl

/-- DOUT <- finalize(), as SHA.FINAL and HMAC.FINAL do it. -/
theorem State.sameButScratch_publish {s t : State} (h : s.sameButScratch t) :
    ((s.withDout s.dp.finalDigest).withDp s.dp.finalized).sameButScratch
      ((t.withDout t.dp.finalDigest).withDp t.dp.finalized) := by
  obtain ⟨e, he, rfl⟩ := State.exists_of_sameButScratch h
  simp only [State.withDp_dp, Datapath.finalDigest_of_sameButScratch he]
  exact State.sameButScratch_of_dp (Datapath.sameButScratch_finalized he) rfl

theorem State.sameButScratch_withMac {s t : State} (h : s.sameButScratch t) (m : MacRegs) :
    (s.withMac m).sameButScratch (t.withMac m) := by
  obtain ⟨e, he, rfl⟩ := State.exists_of_sameButScratch h
  exact State.sameButScratch_of_dp he rfl

theorem State.sameButScratch_withHs {s t : State} (h : s.sameButScratch t) (x : HS) :
    (s.withHs x).sameButScratch (t.withHs x) := by
  obtain ⟨e, he, rfl⟩ := State.exists_of_sameButScratch h
  exact State.sameButScratch_of_dp he rfl

/-- No command's effect depends on scratch. -/
theorem State.sameButScratch_effectOf (i : Instr) {s t : State} (h : s.sameButScratch t) :
    (effectOf i s).sameButScratch (effectOf i t) := by
  obtain ⟨e, he, ht⟩ := State.exists_of_sameButScratch h
  cases i with
  | nop => exact h
  | hmacBegin | cmpBegin | cmpFeed | cmpEnd =>
    subst ht
    exact State.sameButScratch_of_dp he rfl
  | shaInit =>
    subst ht
    exact State.sameButScratch_of_dp (Datapath.sameButScratch_coreInit he) rfl
  | shaUpdate | hmacMsg =>
    subst ht
    exact State.sameButScratch_of_dp (Datapath.sameButScratch_absorbAll _ he) rfl
  | shaFinal => exact State.sameButScratch_withHs (State.sameButScratch_publish h) _
  | hmacKey n =>
    subst ht
    exact State.sameButScratch_keyBytes _ h
  | hmacKeyend => exact State.sameButScratch_startInner (State.sameButScratch_normalizeKey h)
  | hmacFinal =>
    exact State.sameButScratch_withHs (State.sameButScratch_withMac (State.sameButScratch_publish
      (State.sameButScratch_absorbOuter (State.sameButScratch_finishInner h))) _) _
  | softReset =>
    subst ht
    exact State.sameButScratch_of_dp (Datapath.sameButScratch_refl _) rfl

/-! ### Steps that differ in scratch only -/

/-- Two results that answer next states which differ at most in scratch. -/
def alikeButScratch (r q : Result) : Prop :=
  ∃ s t, r = .next s ∧ q = .next t ∧ s.sameButScratch t

theorem alikeButScratch_next {s t : State} (h : s.sameButScratch t) :
    alikeButScratch (.next s) (.next t) := ⟨s, t, rfl, rfl, h⟩

/-- No check reads scratch. -/
theorem checksOf_of_sameButScratch (i : Instr) {s t : State} (h : s.sameButScratch t) :
    checksOf i t = checksOf i s := by
  obtain ⟨e, -, rfl⟩ := State.exists_of_sameButScratch h
  cases i <;> rfl

theorem locked_of_sameButScratch {s t : State} (h : s.sameButScratch t) :
    t.err.locked = s.err.locked := (State.sameVisible_of_sameButScratch h).locked.symm

theorem alikeButScratch_exec (i : Instr) {s t : State} (h : s.sameButScratch t) :
    alikeButScratch (exec i s) (exec i t) := by
  by_cases hi : i = .softReset
  · subst hi
    exact alikeButScratch_next (State.sameButScratch_effectOf .softReset h)
  · rw [exec_eq_runCommand hi, exec_eq_runCommand hi, checksOf_of_sameButScratch i h]
    unfold runCommand
    rw [locked_of_sameButScratch h]
    split
    · exact alikeButScratch_next h
    · cases firstFailing (checksOf i s) with
      | some code => exact alikeButScratch_next (State.sameButScratch_raiseErr h _ _)
      | none => exact alikeButScratch_next (State.sameButScratch_effectOf i h)

theorem alikeButScratch_serveCommand (c : Word) {s t : State} (h : s.sameButScratch t) :
    alikeButScratch (serveCommand c s) (serveCommand c t) := by
  unfold serveCommand
  rw [locked_of_sameButScratch h]
  split_ifs
  · exact alikeButScratch_exec .softReset h
  · exact alikeButScratch_next h
  · cases decode c with
    | ok i => exact alikeButScratch_exec i h
    | error e => exact alikeButScratch_next (State.sameButScratch_raiseErr h _ _)

theorem alikeButScratch_busWrite (off : Offset) (v : Word) {s t : State}
    (h : s.sameButScratch t) : alikeButScratch (busWrite off v s) (busWrite off v t) := by
  unfold busWrite
  split
  · exact alikeButScratch_serveCommand v h
  · exact alikeButScratch_next (State.sameButScratch_regWrite h off v)

theorem alikeButScratch_answer (r : Response) {p q : Result} (h : alikeButScratch p q) :
    alikeButScratch (answer r p) (answer r q) := by
  obtain ⟨s, t, rfl, rfl, hst⟩ := h
  exact alikeButScratch_next (State.sameButScratch_respond hst r)

theorem alikeButScratch_serve (e : BusEvent) {s t : State} (h : s.sameButScratch t) :
    alikeButScratch (serve e s) (serve e t) := by
  cases e with
  | read off size =>
    have hread : busRead off s = busRead off t :=
      hiddenStateIsNeverReadable s t off (State.sameVisible_of_sameButScratch h)
    simp only [serve, hread]
    split <;> exact alikeButScratch_next (State.sameButScratch_respond h _)
  | write off size v =>
    simp only [serve]
    split
    · exact alikeButScratch_answer .written (alikeButScratch_busWrite off v h)
    · exact alikeButScratch_next (State.sameButScratch_respond h .writeError)
  | hardReset => exact alikeButScratch_next (State.sameButScratch_effectOf .softReset h)

theorem alikeButScratch_step {s t : State} (h : s.sameButScratch t) :
    alikeButScratch (step s) (step t) := by
  have hport : t.port = s.port := by
    obtain ⟨e, -, rfl⟩ := State.exists_of_sameButScratch h
    rfl
  cases hs : s.port with
  | nil =>
    rw [step_nil s hs, step_nil t (hport.trans hs)]
    exact alikeButScratch_next h
  | cons e rest =>
    rw [step_cons s e rest hs, step_cons t e rest (hport.trans hs)]
    exact alikeButScratch_serve e (State.sameButScratch_withPort h rest)

/-- Settles O49: every compression overwrites the scratch it reads (`compress_withScratch`), and no
check, read or write reads scratch. -/
theorem scratchRegistersAreNeverObserved : Obligations.ScratchRegistersAreNeverObserved := by
  intro s t h
  obtain ⟨s', t', hs, ht, hst⟩ := alikeButScratch_step h
  exact ⟨s', t', hs, ht, hst, State.responses_of_sameButScratch hst⟩

end Sys2Proof.Machine
end

section
/-!
The units' independence and the invariants (obligations O42, O43, O44, O47).
-/

namespace Sys2Proof.Machine

/-! ### Which registers each family of commands can write (rules R29–R31, R145–R147) -/

/-- The commands of the comparison unit. -/
def isCompare : Instr → Bool
  | .nop | .shaInit | .shaUpdate _ | .shaFinal => false
  | .hmacBegin _ | .hmacKey _ | .hmacKeyend | .hmacMsg _ | .hmacFinal => false
  | .cmpBegin | .cmpFeed _ | .cmpEnd => true
  | .softReset => false

/-- Two states that differ at most in the hash unit: the datapath, the HMAC context, HS and DOUT. -/
def State.sameButHashUnit (s t : State) : Prop :=
  t = { s with dp := t.dp, mac := t.mac, hs := t.hs, dout := t.dout }

theorem State.sameButHashUnit_iff (s t : State) : s.sameButHashUnit t ↔
    t.cmp = s.cmp ∧ t.err = s.err ∧ t.data = s.data ∧ t.datb = s.datb ∧ t.port = s.port ∧
      t.responses = s.responses := by
  constructor
  · intro h
    rw [h]
    exact ⟨rfl, rfl, rfl, rfl, rfl, rfl⟩
  · rintro ⟨hcmp, herr, hdata, hdatb, hport, hresponses⟩
    rw [State.sameButHashUnit, ← hcmp, ← herr, ← hdata, ← hdatb, ← hport, ← hresponses]

theorem sameButHashUnit_keyBytes (bytes : List Byte) (s : State) :
    s.sameButHashUnit (keyBytes bytes s) := by
  obtain ⟨hcmp, herr, -, hdata, hdatb, hport, hresponses, -⟩ := keyBytes_frame bytes s
  exact (State.sameButHashUnit_iff _ _).mpr ⟨hcmp, herr, hdata, hdatb, hport, hresponses⟩

theorem sameButHashUnit_startInner_normalizeKey (s : State) :
    s.sameButHashUnit (startInner (normalizeKey s)) := by
  obtain ⟨d, k, h⟩ := normalizeKey_frame s
  rw [h]
  rfl

/-- A command outside the comparison unit writes the hash unit only. -/
theorem sameButHashUnit_effectOf {i : Instr} (hi : isCompare i = false) (hreset : i ≠ .softReset)
    (s : State) : s.sameButHashUnit (effectOf i s) := by
  cases i with
  | nop | shaInit | shaUpdate | hmacBegin | hmacMsg => rfl
  | shaFinal => exact (State.sameButHashUnit_iff _ _).mpr (by simp [effectOf])
  | hmacFinal =>
    exact (State.sameButHashUnit_iff _ _).mpr
      (by simp [effectOf, publishMac, absorbOuter, finishInner])
  | hmacKey n => exact sameButHashUnit_keyBytes _ s
  | hmacKeyend => exact sameButHashUnit_startInner_normalizeKey s
  | cmpBegin | cmpFeed | cmpEnd => cases hi
  | softReset => exact absurd rfl hreset

/-- A command of the comparison unit writes that unit only, and never its two declared lengths. -/
theorem effectOf_compareUnit {i : Instr} (hi : isCompare i = true) (s : State) :
    ∃ c, effectOf i s = s.withCmp c ∧ c.lenA = s.cmp.lenA ∧ c.lenB = s.cmp.lenB := by
  cases i with
  | cmpBegin =>
    refine ⟨beginCompare s.cmp, rfl, ?_⟩
    unfold beginCompare
    split <;> exact ⟨rfl, rfl⟩
  | cmpFeed n => exact ⟨_, rfl, rfl, rfl⟩
  | cmpEnd =>
    refine ⟨endCompare s.cmp, rfl, ?_⟩
    unfold endCompare
    split <;> exact ⟨rfl, rfl⟩
  | _ => cases hi

/-- The direct hash commands leave the HMAC context alone. -/
theorem effectOf_mac {i : Instr} (hi : i = .shaInit ∨ (∃ n, i = .shaUpdate n) ∨ i = .shaFinal)
    (s : State) : (effectOf i s).mac = s.mac := by
  obtain rfl | ⟨n, rfl⟩ | rfl := hi <;> simp [effectOf]

/-- DOUT is written by SHA.INIT, SHA.FINAL, HMAC.BEGIN and HMAC.FINAL (and by a reset) only. -/
theorem effectOf_dout {i : Instr} (hreset : i ≠ .softReset) (hinit : i ≠ .shaInit)
    (hfinal : i ≠ .shaFinal) (hbegin : ∀ alg, i ≠ .hmacBegin alg) (hmac : i ≠ .hmacFinal)
    (s : State) : (effectOf i s).dout = s.dout := by
  cases i with
  | nop | shaUpdate | hmacMsg | cmpBegin | cmpFeed | cmpEnd => rfl
  | hmacKey n =>
    obtain ⟨-, -, hdout, -⟩ := keyBytes_frame (firstBytes n s.data) s
    exact hdout
  | hmacKeyend =>
    obtain ⟨d, k, h⟩ := normalizeKey_frame s
    rw [effectOf, h]
    rfl
  | shaInit => exact absurd rfl hinit
  | shaFinal => exact absurd rfl hfinal
  | hmacBegin alg => exact absurd rfl (hbegin alg)
  | hmacFinal => exact absurd rfl hmac
  | softReset => exact absurd rfl hreset

/-- Outside STATUS, ERRCODE, ERRCMD, CMP_REMAIN and DOUT, a read returns a constant, a declared length
or a byte of DATA or DATB. -/
theorem busRead_of_dataRegisters {s t : State} (hdata : t.data = s.data) (hdatb : t.datb = s.datb)
    (hlenA : t.cmp.lenA = s.cmp.lenA) (hlenB : t.cmp.lenB = s.cmp.lenB) {off : Offset}
    (hstatus : off ≠ 0x08) (hcode : off ≠ 0x0C) (hcmd : off ≠ 0x10) (hremain : off ≠ 0xC0)
    (hdout : ¬ (0x20 ≤ off.toNat ∧ off.toNat < 0x40)) : busRead off t = busRead off s := by
  have hregion : inRegion offDout 32 off = false := by simpa [inRegion, offDout] using hdout
  have hstatus' : off ≠ offStatus := hstatus
  have hcode' : off ≠ offErrcode := hcode
  have hcmd' : off ≠ offErrcmd := hcmd
  have hremain' : off ≠ offRemain := hremain
  simp only [busRead, regRead, hregion, hstatus', hcode', hcmd', hremain', hdata, hdatb, hlenA,
    hlenB, if_false, Bool.false_eq_true]

/-- What every command's effect leaves alone: the port, the responses, the windows and the declared
lengths. -/
theorem effectOf_dataRegisters {i : Instr} (hreset : i ≠ .softReset) (s : State) :
    (effectOf i s).data = s.data ∧ (effectOf i s).datb = s.datb ∧
      (effectOf i s).cmp.lenA = s.cmp.lenA ∧ (effectOf i s).cmp.lenB = s.cmp.lenB ∧
      (effectOf i s).port = s.port ∧ (effectOf i s).responses = s.responses ∧
      (effectOf i s).err = s.err := by
  cases hi : isCompare i with
  | true =>
    obtain ⟨c, hc, hlenA, hlenB⟩ := effectOf_compareUnit hi s
    rw [hc]
    exact ⟨rfl, rfl, hlenA, hlenB, rfl, rfl, rfl⟩
  | false =>
    obtain ⟨hcmp, herr, hdata, hdatb, hport, hresponses⟩ :=
      (State.sameButHashUnit_iff _ _).mp (sameButHashUnit_effectOf hi hreset s)
    exact ⟨hdata, hdatb, by rw [hcmp], by rw [hcmp], hport, hresponses, herr⟩

/-- Settles O47: a command does nothing, or writes the error registers, or has its effect, and the
effect stays in its unit. -/
theorem unitsAreIndependent : Obligations.UnitsAreIndependent := by
  intro i s t hreset hexec
  obtain h | ⟨code, -, h⟩ | ⟨-, h⟩ := exec_cases i s <;> rw [h] at hexec <;> cases hexec
  · simp
  · refine ⟨rfl, rfl, rfl, rfl, rfl, rfl, fun _ _ _ => rfl, fun _ => ⟨rfl, rfl, rfl, rfl⟩,
      fun _ => rfl, fun _ _ _ _ => rfl, fun off h08 h0C h10 hC0 hdout => ?_⟩
    exact busRead_of_dataRegisters (s := s) (t := raiseErr code (encode i) s) rfl rfl rfl rfl
      h08 h0C h10 hC0 hdout
  · obtain ⟨hdata, hdatb, hlenA, hlenB, hport, hresponses, -⟩ := effectOf_dataRegisters hreset s
    refine ⟨hdata, hdatb, hlenA, hlenB, hport, hresponses, fun hfeed hbegin hend => ?_,
      fun hcmp => ?_, fun hsha => effectOf_mac hsha s,
      fun hinit hfinal hhmac hmac => effectOf_dout hreset hinit hfinal hhmac hmac s,
      fun off h08 h0C h10 hC0 hdout =>
        busRead_of_dataRegisters hdata hdatb hlenA hlenB h08 h0C h10 hC0 hdout⟩
    · have hi : isCompare i = false := by cases i <;> simp_all [isCompare]
      exact ((State.sameButHashUnit_iff _ _).mp (sameButHashUnit_effectOf hi hreset s)).1
    · have hi : isCompare i = true := by obtain rfl | ⟨n, rfl⟩ | rfl := hcmp <;> rfl
      obtain ⟨c, hc, -, -⟩ := effectOf_compareUnit hi s
      rw [hc]
      exact ⟨rfl, rfl, rfl, rfl⟩

/-! ### LEN and BLEN (rules R26, R139, R140) -/

theorem keptByEvents_lengthsAgree : KeptByEvents State.lengthsAgree where
  port _ _ h := h
  respond _ _ h := h
  register off v s h := by
    rw [State.lengthsAgree_iff] at h ⊢
    rwa [regWrite_dp]
  raise _ _ _ _ _ h := h
  effect i _ _ h := keptByDatapath_lengthsAgree.effectOf i h

/-- Settles O44: a predicate of the datapath that absorb, core_init, finalize and reset keep. -/
theorem everyStepKeepsLengthsInAgreement : Obligations.EveryStepKeepsLengthsInAgreement :=
  fun _ _ h hstep => keptByEvents_lengthsAgree.step h hstep

end Sys2Proof.Machine
end

section
/-!
The invariants of rule R41, phase by phase (obligations O42, O43).
-/

namespace Sys2Proof.Machine

/-! ### The invariants, unit by unit -/

/-- A held key has at most 64 bytes, and KEY is zero past them (rule R41 item 3). -/
def MacRegs.keyHeld (m : MacRegs) : Prop :=
  m.klen.toNat ≤ 64 ∧ ∀ j, m.klen.toNat ≤ j → j < 64 → m.key.getD j 0 = 0

/-- What rule R41 items 2 to 6 say of the hash unit's registers in each HS. -/
def hashUnitInv (d : Datapath) (m : MacRegs) (o : Vector Byte 32) : HS → Prop
  | .idle => d.cleared ∧ m.keyErased ∧ o = Vector.replicate 32 0
  | .sha => m.keyErased ∧ o = Vector.replicate 32 0
  | .shaDone => d.cleared ∧ m.keyErased
  | .hkey => d.cleared ∧ m.keyHeld ∧ o = Vector.replicate 32 0
  | .hkeyh => m.klen = 65 ∧ o = Vector.replicate 32 0
  | .hmsg => m.klen.toNat ≤ 65 ∧ o = Vector.replicate 32 0
  | .hmacDone => d.cleared ∧ m.keyErased

/-- What rule R41 items 7 and 8 say of the comparison unit. -/
def CmpRegs.inv (c : CmpRegs) : Prop :=
  (c.cs ≠ .active → c.remain = 0 ∧ c.acc = 0) ∧ (c.cs ≠ .done → c.eq = false)

/-- What rule R41 item 9 says of the error registers. -/
def ErrRegs.inv (e : ErrRegs) : Prop :=
  (e.locked = false ↔ e.code = .none) ∧ (e.locked = false ↔ e.cmd = 0)

section
variable {d : Datapath} {m : MacRegs} {o : Vector Byte 32} {h : HS} (hinv : hashUnitInv d m o h)
include hinv

theorem cleared_of_hashUnitInv (hh : h = .idle ∨ h = .shaDone ∨ h = .hkey ∨ h = .hmacDone) :
    d.cleared := by
  obtain rfl | rfl | rfl | rfl := hh <;> exact hinv.1

theorem keyErased_of_hashUnitInv (hh : h = .idle ∨ h = .sha ∨ h = .shaDone ∨ h = .hmacDone) :
    m.keyErased := by
  obtain rfl | rfl | rfl | rfl := hh
  · obtain ⟨-, herased, -⟩ := hinv
    exact herased
  · exact hinv.1
  · exact hinv.2
  · exact hinv.2

theorem dout_of_hashUnitInv (hsha : h ≠ .shaDone) (hmac : h ≠ .hmacDone) :
    o = Vector.replicate 32 0 := by
  cases h with
  | idle | hkey =>
    obtain ⟨-, -, hdout⟩ := hinv
    exact hdout
  | sha | hkeyh | hmsg => exact hinv.2
  | shaDone => exact absurd rfl hsha
  | hmacDone => exact absurd rfl hmac

/-- KLEN in each HS: 65 in HKEYH, at most 65 in HMSG, at most 64 in the others. -/
theorem klen_of_hashUnitInv : m.klen.toNat ≤ 65 ∧ (h ≠ .hmsg → (h = .hkeyh ↔ m.klen = 65)) := by
  have hsmall (hk : m.klen.toNat ≤ 64) : m.klen ≠ 65 := by
    intro h65
    rw [h65] at hk
    exact absurd hk (by decide)
  have herased (hk : m.keyErased) : m.klen.toNat ≤ 64 := by
    rw [hk.2]
    decide
  cases h with
  | idle | sha | shaDone | hmacDone =>
    have hk := herased (keyErased_of_hashUnitInv hinv (by simp))
    exact ⟨by omega, fun _ => by simpa using hsmall hk⟩
  | hkey =>
    obtain ⟨-, ⟨hk, -⟩, -⟩ := hinv
    exact ⟨by omega, fun _ => by simpa using hsmall hk⟩
  | hkeyh =>
    obtain ⟨hk, -⟩ := hinv
    exact ⟨by simp [hk], fun _ => by simp [hk]⟩
  | hmsg => exact ⟨hinv.1, fun hne => absurd rfl hne⟩

end

/-- Items 2 to 6 give the invariant of the hash unit in the present HS. -/
theorem State.Inv.hashUnitInv {s : State} (h : s.Inv) : hashUnitInv s.dp s.mac s.dout s.hs := by
  obtain ⟨-, hcleared, hheld, hlong, hklen, herased, hdout, -⟩ := h
  cases hs : s.hs with
  | idle => exact ⟨hcleared (by simp [hs]), herased (by simp [hs]), hdout (by simp [hs]) (by simp [hs])⟩
  | sha => exact ⟨herased (by simp [hs]), hdout (by simp [hs]) (by simp [hs])⟩
  | shaDone | hmacDone => exact ⟨hcleared (by simp [hs]), herased (by simp [hs])⟩
  | hkey => exact ⟨hcleared (by simp [hs]), hheld hs, hdout (by simp [hs]) (by simp [hs])⟩
  | hkeyh => exact ⟨(hlong (by simp [hs])).mp hs, hdout (by simp [hs]) (by simp [hs])⟩
  | hmsg => exact ⟨hklen, hdout (by simp [hs]) (by simp [hs])⟩

/-- The invariants are those of the units, with RC and IDIG zero; item 1 holds of every 6-bit BLEN. -/
theorem State.inv_iff (s : State) : s.Inv ↔
    Machine.hashUnitInv s.dp s.mac s.dout s.hs ∧ s.dp.rc = 0 ∧
      s.mac.idig = Vector.replicate 32 0 ∧ s.cmp.inv ∧ s.err.inv := by
  constructor
  · intro h
    exact ⟨h.hashUnitInv, h.rc_zero, h.idig_zero, ⟨h.compare_idle, h.verdict_only_done⟩,
      h.code_iff, h.cmd_iff⟩
  · rintro ⟨hhash, hrc, hidig, ⟨hcompare, hverdict⟩, hcode, hcmd⟩
    obtain ⟨hklen, hlong⟩ := klen_of_hashUnitInv hhash
    have hheld (hs : s.hs = .hkey) : s.mac.keyHeld := by
      rw [hs] at hhash
      obtain ⟨-, hheld, -⟩ := hhash
      exact hheld
    exact ⟨Nat.le_of_lt_succ s.dp.blen.isLt, cleared_of_hashUnitInv hhash, hheld, hlong, hklen,
      keyErased_of_hashUnitInv hhash, dout_of_hashUnitInv hhash, hcompare, hverdict, hcode, hcmd,
      hrc, hidig⟩

/-- Settles O42: the reset registers, unit by unit. -/
theorem resetStateMeetsTheInvariants : Obligations.ResetStateMeetsTheInvariants :=
  ⟨(State.inv_iff _).mpr ⟨⟨⟨rfl, rfl, rfl⟩, ⟨rfl, rfl⟩, rfl⟩, rfl, rfl,
    ⟨fun _ => ⟨rfl, rfl⟩, fun _ => rfl⟩, by decide, by decide⟩, rfl⟩

/-! ### key_byte keeps the invariant of the hash unit (rule R182) -/

theorem emptyKey_keyHeld (idig : Vector Byte 32) :
    (⟨Vector.replicate 64 0, 0, idig⟩ : MacRegs).keyHeld :=
  ⟨Nat.zero_le _, fun j _ hj => by simp [Vector.getD, hj]⟩

/-- A held key stays one when a byte is placed after it. -/
theorem keyHeld_append {m : MacRegs} (h : m.keyHeld) (hroom : m.klen.toNat < 64) (b : Byte) :
    { m with key := m.key.setIfInBounds m.klen.toNat b, klen := m.klen + 1 : MacRegs }.keyHeld := by
  obtain ⟨-, hzero⟩ := h
  have hklen : (m.klen + 1).toNat = m.klen.toNat + 1 := by
    rw [BitVec.toNat_add]
    have h1 : (1 : BitVec 7).toNat = 1 := rfl
    omega
  refine ⟨by simp only [hklen]; omega, fun j hj hj64 => ?_⟩
  rw [hklen] at hj
  have hne : ¬ (m.klen.toNat = j ∧ j < 64) := by omega
  rw [getD_setIfInBounds, if_neg hne]
  exact hzero j (by omega) hj64

/-- A key being received: HS is HKEY or HKEYH and the hash unit meets its invariant. -/
def State.keyingInv (s : State) : Prop :=
  s.hs.keying = true ∧ hashUnitInv s.dp s.mac s.dout s.hs

theorem State.keyingInv_keyByte (b : Byte) {s : State} (h : s.keyingInv) :
    (keyByte b s).keyingInv := by
  obtain ⟨hkeying, hinv⟩ := h
  obtain ⟨hkey, hroom, hs⟩ | ⟨hkey, -, hs⟩ | ⟨hkey, hs⟩ := keyByte_cases b s <;> rw [hs]
  · refine ⟨hkeying, ?_⟩
    rw [hkey] at hinv
    obtain ⟨hcleared, hheld, hdout⟩ := hinv
    simp only [State.withMac_hs, hkey]
    exact ⟨hcleared, keyHeld_append hheld hroom b, hdout⟩
  · exact ⟨rfl, rfl, dout_of_hashUnitInv hinv (by simp [hkey]) (by simp [hkey])⟩
  · have hkeyh : s.hs = .hkeyh := ((HS.keying_iff _).mp hkeying).resolve_left hkey
    refine ⟨hkeying, ?_⟩
    rw [hkeyh] at hinv
    simp only [State.withDp_hs, hkeyh]
    exact hinv

theorem State.keyingInv_keyBytes (bytes : List Byte) {s : State} (h : s.keyingInv) :
    (keyBytes bytes s).keyingInv :=
  List.foldlRecOn bytes _ h fun _ hs b _ => State.keyingInv_keyByte b hs

/-! ### Every effect keeps the invariants of the units -/

/-- In a quiescent state the datapath is cleared and the key erased. -/
theorem quiescent_of_hashUnitInv {d : Datapath} {m : MacRegs} {o : Vector Byte 32} {h : HS}
    (hinv : hashUnitInv d m o h) (hq : h.quiescent = true) : d.cleared ∧ m.keyErased := by
  rw [HS.quiescent_iff] at hq
  exact ⟨cleared_of_hashUnitInv hinv (by tauto), keyErased_of_hashUnitInv hinv (by tauto)⟩

/-- KLEN and DOUT when HMAC.KEYEND starts the inner hash: a key received so far suffices. -/
theorem hashUnitInv_startInner {s : State} (h : s.keyingInv) :
    hashUnitInv (startInner (normalizeKey s)).dp (startInner (normalizeKey s)).mac
      (startInner (normalizeKey s)).dout (startInner (normalizeKey s)).hs := by
  obtain ⟨hkeying, hinv⟩ := h
  rw [HS.keying_iff] at hkeying
  obtain ⟨hklen, -⟩ := klen_of_hashUnitInv hinv
  have hdout := dout_of_hashUnitInv hinv (by rintro h; simp [h] at hkeying)
    (by rintro h; simp [h] at hkeying)
  obtain ⟨d, k, hs⟩ := normalizeKey_frame s
  rw [hs]
  exact ⟨hklen, hdout⟩

/-- Every command whose checks pass keeps items 2 to 6: it starts in an HS it is legal in, and leaves
what the next HS asks for. -/
theorem hashUnitInv_effectOf {i : Instr} {s : State}
    (hpass : firstFailing (checksOf i s) = none) (h : hashUnitInv s.dp s.mac s.dout s.hs) :
    hashUnitInv (effectOf i s).dp (effectOf i s).mac (effectOf i s).dout (effectOf i s).hs := by
  cases i with
  | nop | cmpBegin | cmpFeed | cmpEnd => exact h
  | shaInit =>
    have hquiescent := legal_of_firstFailing hpass (legal := s.hs.quiescent) (by simp [checksOf])
    obtain ⟨-, herased⟩ := quiescent_of_hashUnitInv h hquiescent
    exact ⟨herased, rfl⟩
  | shaUpdate n =>
    have hlegal := legal_of_firstFailing hpass (legal := s.hs == .sha) (by simp [checksOf])
    have hsha : s.hs = .sha := by simpa using hlegal
    simp only [effectOf, State.withDp_hs, hsha] at h ⊢
    exact h
  | shaFinal =>
    have hlegal := legal_of_firstFailing hpass (legal := s.hs == .sha) (by simp [checksOf])
    have hsha : s.hs = .sha := by simpa using hlegal
    have herased := keyErased_of_hashUnitInv h (by simp [hsha])
    exact ⟨⟨rfl, rfl, rfl⟩, herased⟩
  | hmacBegin alg =>
    have hquiescent := legal_of_firstFailing hpass (legal := s.hs.quiescent) (by simp [checksOf])
    obtain ⟨hcleared, -⟩ := quiescent_of_hashUnitInv h hquiescent
    exact ⟨hcleared, emptyKey_keyHeld _, rfl⟩
  | hmacKey n =>
    have hkeying := legal_of_firstFailing hpass (legal := s.hs.keying) (by simp [checksOf])
    obtain ⟨-, hinv⟩ := State.keyingInv_keyBytes (firstBytes n s.data) ⟨hkeying, h⟩
    exact hinv
  | hmacKeyend =>
    have hkeying := legal_of_firstFailing hpass (legal := s.hs.keying) (by simp [checksOf])
    exact hashUnitInv_startInner ⟨hkeying, h⟩
  | hmacMsg n =>
    have hlegal := legal_of_firstFailing hpass (legal := s.hs == .hmsg) (by simp [checksOf])
    have hmsg : s.hs = .hmsg := by simpa using hlegal
    simp only [effectOf, State.withDp_hs, hmsg] at h ⊢
    exact h
  | hmacFinal => exact ⟨⟨rfl, rfl, rfl⟩, rfl, rfl⟩
  | softReset => exact ⟨⟨rfl, rfl, rfl⟩, ⟨rfl, rfl⟩, rfl⟩

/-- IDIG is written and erased within HMAC.FINAL (rule R28). -/
theorem idig_effectOf (i : Instr) {s : State} (h : s.mac.idig = Vector.replicate 32 0) :
    (effectOf i s).mac.idig = Vector.replicate 32 0 := by
  cases i with
  | nop | shaInit | shaUpdate | hmacMsg | cmpBegin | cmpFeed | cmpEnd => exact h
  | shaFinal => simpa [effectOf] using h
  | hmacBegin | hmacFinal | softReset => rfl
  | hmacKey n =>
    obtain ⟨-, -, -, -, -, -, -, hidig⟩ := keyBytes_frame (firstBytes n s.data) s
    exact hidig.trans h
  | hmacKeyend =>
    obtain ⟨d, k, hs⟩ := normalizeKey_frame s
    rw [effectOf, hs]
    exact h

theorem beginCompare_inv (c : CmpRegs) : (beginCompare c).inv := by
  unfold beginCompare CmpRegs.inv
  split <;> simp

/-- CMP.END leaves DONE with CMP_REMAIN = 0, since its check refuses to end early. -/
theorem endCompare_inv {c : CmpRegs} (h : c.inv) (hdone : c.cs = .active → c.remain = 0) :
    (endCompare c).inv := by
  unfold endCompare
  split
  · exact ⟨fun _ => ⟨hdone ‹_›, rfl⟩, fun hne => absurd rfl hne⟩
  · exact h

/-- Every command whose checks pass keeps items 7 and 8. -/
theorem compareInv_effectOf {i : Instr} {s : State}
    (hpass : firstFailing (checksOf i s) = none) (h : s.cmp.inv) : (effectOf i s).cmp.inv := by
  cases hi : isCompare i with
  | false =>
    by_cases hreset : i = .softReset
    · subst hreset
      exact ⟨fun _ => ⟨rfl, rfl⟩, fun _ => rfl⟩
    · obtain ⟨hcmp, -⟩ := (State.sameButHashUnit_iff _ _).mp (sameButHashUnit_effectOf hi hreset s)
      rwa [hcmp]
  | true =>
    cases i with
    | cmpBegin => exact beginCompare_inv s.cmp
    | cmpFeed n =>
      have hlegal := legal_of_firstFailing hpass (legal := s.cmp.cs == .active) (by simp [checksOf])
      have hactive : s.cmp.cs = .active := by simpa using hlegal
      exact ⟨fun hne => absurd hactive hne, h.2⟩
    | cmpEnd =>
      refine endCompare_inv h fun hactive => ?_
      have hcheck := (firstFailing_eq_none_iff _).mp hpass
        (.cmpIncomplete, s.cmp.cs == .active && s.cmp.remain != 0) (by simp [checksOf])
      simpa [hactive] using hcheck
    | _ => cases hi

/-- Every effect keeps item 9: a reset clears the error registers, the others leave them alone. -/
theorem errorInv_effectOf (i : Instr) {s : State} (h : s.err.inv) : (effectOf i s).err.inv := by
  by_cases hreset : i = .softReset
  · subst hreset
    exact ⟨iff_of_true rfl rfl, iff_of_true rfl rfl⟩
  · obtain ⟨-, -, -, -, -, -, herr⟩ := effectOf_dataRegisters hreset s
    rwa [herr]

/-! ### Every event keeps the invariants (rule R41) -/

theorem keptByEvents_inv : KeptByEvents State.Inv where
  port s _ h := (State.inv_iff _).mpr ((State.inv_iff s).mp h)
  respond _ s h := (State.inv_iff _).mpr ((State.inv_iff s).mp h)
  register off v s h := by
    have hinv := (State.inv_iff s).mp h
    obtain ⟨a, b, hs⟩ | ⟨x, hs⟩ | ⟨x, hs⟩ := regWrite_cases off v s <;> rw [hs] <;>
      exact (State.inv_iff _).mpr hinv
  raise code c s hcode hc h := by
    obtain ⟨hhash, hrc, hidig, hcompare, -⟩ := (State.inv_iff s).mp h
    have herror : (raiseErr code c s).err.inv := ⟨by simpa using hcode, by simpa using hc⟩
    exact (State.inv_iff _).mpr ⟨hhash, hrc, hidig, hcompare, herror⟩
  effect i s hpass h := by
    obtain ⟨hhash, hrc, hidig, hcompare, herror⟩ := (State.inv_iff s).mp h
    exact (State.inv_iff _).mpr ⟨hashUnitInv_effectOf hpass hhash,
      keptByDatapath_rc_zero.effectOf i hrc, idig_effectOf i hidig,
      compareInv_effectOf hpass hcompare, errorInv_effectOf i herror⟩

/-- Settles O43: each unit's invariant is kept by every event, so by every step. -/
theorem everyStepKeepsTheInvariants : Obligations.EveryStepKeepsTheInvariants :=
  fun _ _ h hstep => keptByEvents_inv.step h hstep

end Sys2Proof.Machine
end

section
/-!
The register map and the bus (obligations O34, O35, O37, O41).
-/

namespace Sys2Proof.Machine

/-! ### Byte lanes (rule R64) -/

/-- Byte j of a bytes region after a write to bytes i..i+3: lane j - i of the word, or the byte held
before. -/
theorem getD_laneWrite {k : Nat} (r : Vector Byte k) {i : Nat} (hi : i + 3 < k) (v : Word)
    (j : Nat) : (laneWrite r i v).getD j 0 =
      if i ≤ j ∧ j < i + 4 then v.extractLsb' (8 * (j - i)) 8 else r.getD j 0 := by
  simp only [laneWrite, getD_setIfInBounds]
  by_cases hlane : i ≤ j ∧ j < i + 4
  · obtain rfl | rfl | rfl | rfl : j = i ∨ j = i + 1 ∨ j = i + 2 ∨ j = i + 3 := by omega
    all_goals
      simp
      omega
  · rw [if_neg hlane, if_neg (by omega), if_neg (by omega), if_neg (by omega), if_neg (by omega)]

/-- The four bytes of a word, each in its lane, are the word. -/
theorem lanes_of_bytes (v : Word) :
    (v.extractLsb' 0 8).setWidth 32 ||| ((v.extractLsb' 8 8).setWidth 32 <<< 8) |||
      ((v.extractLsb' 16 8).setWidth 32 <<< 16) ||| ((v.extractLsb' 24 8).setWidth 32 <<< 24) =
      v := by
  ext j hj
  interval_cases j <;> simp

theorem laneRead_laneWrite_same {k : Nat} (r : Vector Byte k) {i : Nat} (hi : i + 3 < k)
    (v : Word) : laneRead (laneWrite r i v) i = v := by
  simp only [laneRead, getD_laneWrite r hi]
  simpa using lanes_of_bytes v

theorem laneRead_laneWrite_of_disjoint {k : Nat} (r : Vector Byte k) {i j : Nat} (hi : i + 3 < k)
    (v : Word) (hdisjoint : j + 3 < i ∨ i + 3 < j) :
    laneRead (laneWrite r i v) j = laneRead r j := by
  simp only [laneRead, getD_laneWrite r hi]
  rw [if_neg (by omega), if_neg (by omega), if_neg (by omega), if_neg (by omega)]

/-! ### The regions of the register map (rule R63) -/

theorem inRegion_iff (start : Offset) (len : Nat) (off : Offset) :
    inRegion start len off = true ↔
      start.toNat ≤ off.toNat ∧ off.toNat < start.toNat + len := by
  simp [inRegion]

theorem inRegion_of_eq_add {start off : Offset} {len i : Nat} (hoff : off.toNat = start.toNat + i)
    (hi : i < len) : inRegion start len off = true := by
  rw [inRegion_iff]
  omega

theorem not_inRegion {start off : Offset} {len : Nat}
    (h : off.toNat < start.toNat ∨ start.toNat + len ≤ off.toNat) :
    ¬ inRegion start len off = true := by
  rw [inRegion_iff]
  omega

/-- An offset beyond a register's is not that register's. -/
theorem ne_of_toNat_lt {off reg : Offset} (h : reg.toNat < off.toNat) : off ≠ reg := by
  rintro rfl
  exact Nat.lt_irrefl _ h

/-- The byte offset of word i of a region. -/
theorem toNat_wordOffset {start i : Nat} (h : start + 4 * i < 256) :
    (BitVec.ofNat 8 (start + 4 * i)).toNat = start + 4 * i := by
  rw [BitVec.toNat_ofNat, Nat.mod_eq_of_lt h]

/-- From 0x20 on, the register map is the three bytes regions and CMP_REMAIN. -/
theorem regRead_of_le {off : Offset} (h : 0x20 ≤ off.toNat) (s : State) : regRead off s =
    if inRegion offDout 32 off then laneRead s.dout (off.toNat - 0x20)
    else if inRegion offData 64 off then laneRead s.data (off.toNat - 0x40)
    else if inRegion offDatb 64 off then laneRead s.datb (off.toNat - 0x80)
    else if off = offRemain then s.cmp.remain
    else 0 := by
  have hne : ∀ reg : Offset, reg.toNat < 0x20 → off ≠ reg :=
    fun reg hreg => ne_of_toNat_lt (Nat.lt_of_lt_of_le hreg h)
  unfold regRead
  rw [if_neg (hne offId (by decide)), if_neg (hne offVersion (by decide)),
    if_neg (hne offStatus (by decide)), if_neg (hne offErrcode (by decide)),
    if_neg (hne offErrcmd (by decide)), if_neg (hne offCmd (by decide)),
    if_neg (hne offLenA (by decide)), if_neg (hne offLenB (by decide))]
  rfl

theorem regRead_dout {off : Offset} {i : Nat} (hoff : off.toNat = 0x20 + i) (hi : i < 32)
    (s : State) : regRead off s = laneRead s.dout i := by
  rw [regRead_of_le (by omega), if_pos (inRegion_of_eq_add (start := offDout) hoff hi), hoff,
    Nat.add_sub_cancel_left]

theorem regRead_data {off : Offset} {i : Nat} (hoff : off.toNat = 0x40 + i) (hi : i < 64)
    (s : State) : regRead off s = laneRead s.data i := by
  have hdout : 0x40 ≤ off.toNat := by omega
  rw [regRead_of_le (by omega), if_neg (not_inRegion (start := offDout) (.inr hdout)),
    if_pos (inRegion_of_eq_add (start := offData) hoff hi), hoff, Nat.add_sub_cancel_left]

theorem regRead_datb {off : Offset} {i : Nat} (hoff : off.toNat = 0x80 + i) (hi : i < 64)
    (s : State) : regRead off s = laneRead s.datb i := by
  have hdout : 0x40 ≤ off.toNat := by omega
  have hdata : 0x80 ≤ off.toNat := by omega
  rw [regRead_of_le (by omega), if_neg (not_inRegion (start := offDout) (.inr hdout)),
    if_neg (not_inRegion (start := offData) (.inr hdata)),
    if_pos (inRegion_of_eq_add (start := offDatb) hoff hi), hoff, Nat.add_sub_cancel_left]

/-- The reserved offsets read 0. -/
theorem regRead_reserved {off : Offset} (h : 0xC4 ≤ off.toNat) (s : State) : regRead off s = 0 := by
  have hdout : 0x40 ≤ off.toNat := by omega
  have hdata : 0x80 ≤ off.toNat := by omega
  have hdatb : 0xC0 ≤ off.toNat := by omega
  rw [regRead_of_le (by omega), if_neg (not_inRegion (start := offDout) (.inr hdout)),
    if_neg (not_inRegion (start := offData) (.inr hdata)),
    if_neg (not_inRegion (start := offDatb) (.inr hdatb)),
    if_neg (ne_of_toNat_lt (Nat.lt_of_lt_of_le (by decide) h))]

/-- From 0x20 on, only DATA and DATB store. -/
theorem regWrite_of_le {off : Offset} (h : 0x20 ≤ off.toNat) (v : Word) (s : State) :
    regWrite off v s =
      if inRegion offData 64 off then s.withData (laneWrite s.data (off.toNat - 0x40) v)
      else if inRegion offDatb 64 off then s.withDatb (laneWrite s.datb (off.toNat - 0x80) v)
      else s := by
  have hlenA : off ≠ offLenA := ne_of_toNat_lt (Nat.lt_of_lt_of_le (by decide) h)
  have hlenB : off ≠ offLenB := ne_of_toNat_lt (Nat.lt_of_lt_of_le (by decide) h)
  unfold regWrite
  rw [if_neg hlenA, if_neg hlenB]
  rfl

theorem regWrite_data {off : Offset} {i : Nat} (hoff : off.toNat = 0x40 + i) (hi : i < 64)
    (v : Word) (s : State) : regWrite off v s = s.withData (laneWrite s.data i v) := by
  rw [regWrite_of_le (by omega), if_pos (inRegion_of_eq_add (start := offData) hoff hi), hoff,
    Nat.add_sub_cancel_left]

theorem regWrite_datb {off : Offset} {i : Nat} (hoff : off.toNat = 0x80 + i) (hi : i < 64)
    (v : Word) (s : State) : regWrite off v s = s.withDatb (laneWrite s.datb i v) := by
  have hdata : 0x80 ≤ off.toNat := by omega
  rw [regWrite_of_le (by omega), if_neg (not_inRegion (start := offData) (.inr hdata)),
    if_pos (inRegion_of_eq_add (start := offDatb) hoff hi), hoff, Nat.add_sub_cancel_left]

/-- Writes to read-only and reserved offsets are ignored. -/
theorem regWrite_ignored {off : Offset} (hlenA : off ≠ offLenA) (hlenB : off ≠ offLenB)
    (hwindows : ¬ (0x40 ≤ off.toNat ∧ off.toNat < 0xC0)) (v : Word) (s : State) :
    regWrite off v s = s := by
  have hdata : off.toNat < 0x40 ∨ 0x80 ≤ off.toNat := by omega
  have hdatb : off.toNat < 0x80 ∨ 0xC0 ≤ off.toNat := by omega
  unfold regWrite
  rw [if_neg hlenA, if_neg hlenB, if_neg (not_inRegion (start := offData) hdata),
    if_neg (not_inRegion (start := offDatb) hdatb)]

/-! ### The bus on the map -/

theorem busWrite_of_le {off : Offset} (h : 0x20 ≤ off.toNat) (v : Word) (s : State) :
    busWrite off v s = .next (regWrite off v s) :=
  busWrite_register off v s (ne_of_toNat_lt (Nat.lt_of_lt_of_le (by decide) h))

/-- Byte j of a window after a write of its word i. -/
theorem getD_laneWrite_word {k : Nat} (r : Vector Byte k) {i : Nat} (hi : 4 * i + 3 < k) (v : Word)
    (j : Nat) : (laneWrite r (4 * i) v).getD j 0 =
      if j / 4 = i then v.extractLsb' (8 * (j % 4)) 8 else r.getD j 0 := by
  rw [getD_laneWrite r hi]
  by_cases hword : j / 4 = i
  · rw [if_pos (by omega), if_pos hword, show j - 4 * i = j % 4 by omega]
  · rw [if_neg (by omega), if_neg hword]

theorem busWrite_ignored {off : Offset}
    (h : off.toNat < 0x14 ∨ (0x20 ≤ off.toNat ∧ off.toNat < 0x40) ∨ 0xC0 ≤ off.toNat) (v : Word)
    (s : State) : busWrite off v s = .next s := by
  have hne : ∀ reg : Offset, 0x14 ≤ reg.toNat → reg.toNat < 0x20 → off ≠ reg := by
    rintro reg hlo hhi rfl
    omega
  rw [busWrite_register off v s (hne offCmd (by decide) (by decide)),
    regWrite_ignored (hne offLenA (by decide) (by decide)) (hne offLenB (by decide) (by decide))
      (by omega)]

/-- Settles O34: the single registers by the map itself, the bytes regions word by word. -/
theorem registerMapReadsAndWrites : Obligations.RegisterMapReadsAndWrites := by
  refine ⟨fun s => ⟨rfl, rfl, rfl, rfl, rfl, rfl, rfl, rfl, rfl, fun off h => regRead_reserved h s,
    fun i hi => regRead_dout (toNat_wordOffset (by omega)) (by omega) s,
    fun i hi => regRead_data (toNat_wordOffset (by omega)) (by omega) s,
    fun i hi => regRead_datb (toNat_wordOffset (by omega)) (by omega) s⟩,
    fun s v => ⟨busWrite_command v s, rfl, rfl, fun i hi => ?data, fun i hi => ?datb,
      fun off _ h => busWrite_ignored h v s⟩⟩
  case data =>
    have hoff : (BitVec.ofNat 8 (0x40 + 4 * i)).toNat = 0x40 + 4 * i := toNat_wordOffset (by omega)
    refine ⟨laneWrite s.data (4 * i) v, ?_, fun j _ => getD_laneWrite_word s.data (by omega) v j⟩
    rw [busWrite_of_le (by omega), regWrite_data hoff (by omega)]
    rfl
  case datb =>
    have hoff : (BitVec.ofNat 8 (0x80 + 4 * i)).toNat = 0x80 + 4 * i := toNat_wordOffset (by omega)
    refine ⟨laneWrite s.datb (4 * i) v, ?_, fun j _ => getD_laneWrite_word s.datb (by omega) v j⟩
    rw [busWrite_of_le (by omega), regWrite_datb hoff (by omega)]
    rfl

/-! ### Reading what was written (rule R72) -/

/-- Where a write lands in the windows or the declared lengths, it is read back. -/
theorem regRead_regWrite_same {off : Offset} (haligned : off.toNat % 4 = 0)
    (hwritable : off = 0x18 ∨ off = 0x1C ∨ (0x40 ≤ off.toNat ∧ off.toNat < 0xC0)) (v : Word)
    (s : State) : regRead off (regWrite off v s) = v := by
  obtain rfl | rfl | ⟨hlo, hhi⟩ := hwritable
  · rfl
  · rfl
  · by_cases hdata : off.toNat < 0x80
    · obtain ⟨i, hoff⟩ := Nat.exists_eq_add_of_le hlo
      rw [regWrite_data hoff (by omega), regRead_data hoff (by omega)]
      exact laneRead_laneWrite_same s.data (by omega) v
    · obtain ⟨i, hoff⟩ := Nat.exists_eq_add_of_le (Nat.le_of_not_lt hdata)
      rw [regWrite_datb hoff (by omega), regRead_datb hoff (by omega)]
      exact laneRead_laneWrite_same s.datb (by omega) v

theorem regRead_withLenA {off : Offset} (h : off ≠ offLenA) (v : Word) (s : State) :
    regRead off (s.withCmp { s.cmp with lenA := v }) = regRead off s := by
  unfold regRead
  rw [if_neg h, if_neg h]
  rfl

theorem regRead_withLenB {off : Offset} (h : off ≠ offLenB) (v : Word) (s : State) :
    regRead off (s.withCmp { s.cmp with lenB := v }) = regRead off s := by
  unfold regRead
  rw [if_neg h, if_neg h]
  rfl

/-- What DATA holds is read in its own region only. -/
theorem regRead_withData {off : Offset} {x : Vector Byte 64} {s : State}
    (h : inRegion offData 64 off = true →
      laneRead x (off.toNat - offData.toNat) = laneRead s.data (off.toNat - offData.toNat)) :
    regRead off (s.withData x) = regRead off s := by
  unfold regRead
  by_cases hdata : inRegion offData 64 off = true
  · rw [State.withData_data, h hdata]
    rfl
  · rw [if_neg hdata, if_neg hdata]
    rfl

/-- What DATB holds is read in its own region only. -/
theorem regRead_withDatb {off : Offset} {x : Vector Byte 64} {s : State}
    (h : inRegion offDatb 64 off = true →
      laneRead x (off.toNat - offDatb.toNat) = laneRead s.datb (off.toNat - offDatb.toNat)) :
    regRead off (s.withDatb x) = regRead off s := by
  unfold regRead
  by_cases hdatb : inRegion offDatb 64 off = true
  · rw [State.withDatb_datb, h hdatb]
    rfl
  · rw [if_neg hdatb, if_neg hdatb]
    rfl

/-- Writes to different words of a window do not meet. -/
theorem laneRead_laneWrite_of_ne {start off other : Offset} (hstart : start.toNat % 4 = 0)
    (haligned : off.toNat % 4 = 0) (hother : other.toNat % 4 = 0) (hne : other ≠ off)
    (hoff : inRegion start 64 off = true) (hin : inRegion start 64 other = true)
    (r : Vector Byte 64) (v : Word) :
    laneRead (laneWrite r (off.toNat - start.toNat) v) (other.toNat - start.toNat) =
      laneRead r (other.toNat - start.toNat) := by
  obtain ⟨hlo, hhi⟩ := (inRegion_iff start 64 off).mp hoff
  obtain ⟨hlo', hhi'⟩ := (inRegion_iff start 64 other).mp hin
  have hne' : other.toNat ≠ off.toNat := fun h => hne (BitVec.eq_of_toNat_eq h)
  exact laneRead_laneWrite_of_disjoint r (by omega) v (by omega)

/-- A register write leaves what every other aligned offset reads alone. -/
theorem regRead_regWrite_other {off other : Offset} (haligned : off.toNat % 4 = 0)
    (hother : other.toNat % 4 = 0) (hne : other ≠ off) (v : Word) (s : State) :
    regRead other (regWrite off v s) = regRead other s := by
  unfold regWrite
  split_ifs with hlenA hlenB hdata hdatb
  · exact regRead_withLenA (hlenA ▸ hne) v s
  · exact regRead_withLenB (hlenB ▸ hne) v s
  · exact regRead_withData fun hin =>
      laneRead_laneWrite_of_ne rfl haligned hother hne hdata hin s.data v
  · exact regRead_withDatb fun hin =>
      laneRead_laneWrite_of_ne rfl haligned hother hne hdatb hin s.datb v
  · rfl

/-- Settles O35: a window's words do not overlap, and no two registers share an offset. -/
theorem readReturnsTheLastWrite : Obligations.ReadReturnsTheLastWrite := by
  intro off other v s haligned hother hcmd
  exact ⟨regWrite off v s, busWrite_register off v s hcmd,
    fun hwritable => regRead_regWrite_same haligned hwritable v s,
    fun hne => regRead_regWrite_other haligned hother hne v s⟩

/-! ### One step, one event, one answer (rules R62, R69, R96) -/

theorem accepted_of_aligned {off : Offset} (haligned : off.toNat % 4 = 0) : accepted off 4 = true := by
  simp [accepted, haligned]

/-- The pending events are not readable. -/
theorem regRead_withPort (off : Offset) (s : State) (events : List BusEvent) :
    regRead off (s.withPort events) = regRead off s := rfl

theorem effectOf_port_responses (i : Instr) (s : State) :
    (effectOf i s).port = s.port ∧ (effectOf i s).responses = s.responses := by
  by_cases hreset : i = .softReset
  · subst hreset
    exact ⟨resetBlock_port s, resetBlock_responses s⟩
  · obtain ⟨-, -, -, -, hport, hresponses, -⟩ := effectOf_dataRegisters hreset s
    exact ⟨hport, hresponses⟩

/-- A write completes, and does not touch the pending events or the earlier responses. -/
theorem busWrite_port_responses (off : Offset) (v : Word) (s : State) :
    ∃ t, busWrite off v s = .next t ∧ t.port = s.port ∧ t.responses = s.responses := by
  by_cases hcmd : off = offCmd
  · subst hcmd
    rw [busWrite_command]
    obtain hs | ⟨code, w, -, -, hs⟩ | ⟨i, -, hs⟩ := serveCommand_cases v s
    · exact ⟨_, hs, rfl, rfl⟩
    · exact ⟨_, hs, rfl, rfl⟩
    · exact ⟨_, hs, effectOf_port_responses i s⟩
  · refine ⟨_, busWrite_register off v s hcmd, ?_⟩
    obtain ⟨a, b, h⟩ | ⟨x, h⟩ | ⟨x, h⟩ := regWrite_cases off v s <;> rw [h] <;> exact ⟨rfl, rfl⟩

/-- Every access is answered once, a reset not at all. -/
theorem serve_responses (e : BusEvent) (s : State) :
    ∃ t rs, serve e s = .next t ∧ t.port = s.port ∧ t.responses = s.responses ++ rs ∧
      rs.length = if e = .hardReset then 0 else 1 := by
  cases e with
  | read off size =>
    cases ha : accepted off size with
    | true => exact ⟨_, [_], serve_read_accepted off size s ha, rfl, rfl, rfl⟩
    | false => exact ⟨respond (.readError 0) s, [.readError 0], by simp [serve, ha], rfl, rfl, rfl⟩
  | write off size v =>
    cases ha : accepted off size with
    | true =>
      obtain ⟨t, ht, hport, hresponses⟩ := busWrite_port_responses off v s
      refine ⟨respond .written t, [.written], ?_, hport, by rw [respond_responses, hresponses], rfl⟩
      rw [serve_write_accepted off size v s ha, ht, answer_next]
    | false => exact ⟨respond .writeError s, [.writeError], by simp [serve, ha], rfl, rfl, rfl⟩
  | hardReset => exact ⟨resetBlock s, [], rfl, rfl, (List.append_nil _).symm, rfl⟩

/-- Settles O37: a step is the service of the oldest event, and every service answers once. -/
theorem stepServesExactlyOneEvent : Obligations.StepServesExactlyOneEvent := by
  refine ⟨step_nil, fun s off rest hport haligned => ?read, fun s off v rest hport haligned => ?write,
    fun s e rest hport => ?any⟩
  case read =>
    rw [step_cons s _ rest hport, serve_read_accepted off 4 _ (accepted_of_aligned haligned),
      regRead_withPort]
    rfl
  case write =>
    rw [step_cons s _ rest hport, serve_write_accepted off 4 v _ (accepted_of_aligned haligned)]
    rfl
  case any =>
    rw [step_cons s e rest hport]
    exact serve_responses e (s.withPort rest)

/-! ### The window's addresses (rules R60, R71) -/

/-- An address in the window selects its distance from BASE; no other address selects anything. -/
theorem windowOffset_eq_some_iff (addr : Nat) (off : Offset) :
    Config.windowOffset addr = some off ↔ addr = Config.hostAddress off := by
  unfold Config.windowOffset Config.hostAddress
  have hlt := off.isLt
  by_cases hin : Config.base ≤ addr ∧ addr < Config.base + 256
  · rw [if_pos hin, Option.some_inj, ← BitVec.toNat_inj, BitVec.toNat_ofNat]
    omega
  · rw [if_neg hin]
    constructor
    · intro h
      cases h
    · omega

/-- Settles O41: BASE is a page boundary, and the decoding of the window inverts `hostAddress`. -/
theorem windowDecodesItsOwnAddresses : Obligations.WindowDecodesItsOwnAddresses :=
  ⟨Nat.mul_mod_right 256 Config.basePage,
    fun off => (windowOffset_eq_some_iff (Config.hostAddress off) off).mpr rfl,
    fun addr off => (windowOffset_eq_some_iff addr off).mp⟩

end Sys2Proof.Machine
end

section
/-!
Laws of the encoding: the fields of a command word, the rows of the opcode map, and decoder and encoder
as each other's inverses (obligations O1 to O5, O36).
-/

namespace Sys2Proof

/-! ### The fields of a command word (rules R90, R101) -/

/-- A word is its four fields. -/
theorem toNat_eq_fields (c : Word) : c.toNat = (fieldOp c).toNat + 2 ^ 8 * (fieldN c).toNat +
    2 ^ 16 * (fieldAlg c).toNat + 2 ^ 24 * (fieldRsv c).toNat := by
  have hlt := c.isLt
  simp only [fieldOp, fieldN, fieldAlg, fieldRsv, BitVec.extractLsb'_toNat,
    Nat.shiftRight_eq_div_pow]
  omega

theorem eq_iff_fields (c d : Word) : c = d ↔ fieldOp c = fieldOp d ∧ fieldN c = fieldN d ∧
    fieldAlg c = fieldAlg d ∧ fieldRsv c = fieldRsv d := by
  constructor
  · rintro rfl
    exact ⟨rfl, rfl, rfl, rfl⟩
  · rintro ⟨hop, hn, halg, hrsv⟩
    apply BitVec.eq_of_toNat_eq
    rw [toNat_eq_fields c, toNat_eq_fields d, hop, hn, halg, hrsv]

theorem fieldOp_and (c d : Word) : fieldOp (c &&& d) = fieldOp c &&& fieldOp d :=
  BitVec.extractLsb'_and

theorem fieldN_and (c d : Word) : fieldN (c &&& d) = fieldN c &&& fieldN d :=
  BitVec.extractLsb'_and

theorem fieldAlg_and (c d : Word) : fieldAlg (c &&& d) = fieldAlg c &&& fieldAlg d :=
  BitVec.extractLsb'_and

theorem fieldRsv_and (c d : Word) : fieldRsv (c &&& d) = fieldRsv c &&& fieldRsv d :=
  BitVec.extractLsb'_and

@[simp] theorem fieldOp_enc (op n alg : Byte) : fieldOp (enc op n alg) = op := by
  ext j hj
  interval_cases j <;> simp [fieldOp, enc]

@[simp] theorem fieldN_enc (op n alg : Byte) : fieldN (enc op n alg) = n := by
  ext j hj
  interval_cases j <;> simp [fieldN, enc]

@[simp] theorem fieldAlg_enc (op n alg : Byte) : fieldAlg (enc op n alg) = alg := by
  ext j hj
  interval_cases j <;> simp [fieldAlg, enc]

@[simp] theorem fieldRsv_enc (op n alg : Byte) : fieldRsv (enc op n alg) = 0 := by
  ext j hj
  interval_cases j <;> simp [fieldRsv, enc]

/-- Settles O4: the fields of an assembled word are its parts, and a word is its fields. -/
theorem commandWordsAreAssembledFromFields : Obligations.CommandWordsAreAssembledFromFields := by
  refine ⟨fun op n alg => ⟨?_, fieldOp_enc op n alg, fieldN_enc op n alg, fieldAlg_enc op n alg,
    fieldRsv_enc op n alg⟩, by decide⟩
  simp [toNat_eq_fields (enc op n alg)]

/-- A word with RSV = 0 is assembled from its other fields. -/
theorem enc_fields {c : Word} (hrsv : fieldRsv c = 0) :
    enc (fieldOp c) (fieldN c) (fieldAlg c) = c := by
  simp [eq_iff_fields, hrsv]

/-! ### The rows of the opcode map (rule R94) -/

/-- The OP of a row. -/
def OpcodeRow.op (r : OpcodeRow) : Byte := fieldOp r.matchBits

/-- Whether the command of an OP has a byte count N (rules R91, R94). -/
def takesN (op : Byte) : Bool := op == 0x02 || op == 0x11 || op == 0x13 || op == 0x21

/-- Whether the command of an OP has an algorithm selector ALG (rules R92, R94). -/
def takesAlg (op : Byte) : Bool := op == 0x10

/-- The fields that the command of a word's OP does not use are 0 (rules R91, R92). -/
def unusedFieldsZero (c : Word) : Prop :=
  (takesN (fieldOp c) = true ∨ fieldN c = 0) ∧ (takesAlg (fieldOp c) = true ∨ fieldAlg c = 0)

theorem opcodeMap_ops : opcodeMap.map OpcodeRow.op =
    [0x00, 0x01, 0x02, 0x03, 0x10, 0x11, 0x12, 0x13, 0x14, 0x20, 0x21, 0x22, 0xFF] := by
  decide

/-- The rows have different opcodes. -/
theorem opcodeMap_ops_nodup : (opcodeMap.map OpcodeRow.op).Nodup := by
  rw [opcodeMap_ops]
  decide

/-- A row's match is its OP alone. -/
theorem matchBits_of_mem : ∀ r ∈ opcodeMap, r.matchBits = enc r.op 0 0 := by decide

/-- A row's mask leaves free the operands of its command and fixes everything else. -/
theorem mask_of_mem : ∀ r ∈ opcodeMap, fieldOp r.mask = 0xFF ∧
    fieldN r.mask = (if takesN r.op then 0 else 0xFF) ∧
    fieldAlg r.mask = (if takesAlg r.op then 0 else 0xFF) ∧ fieldRsv r.mask = 0xFF := by decide

theorem and_fullMask (x : Byte) : x &&& 0xFF = x := BitVec.and_allOnes

theorem and_operandMask (free : Bool) (x : Byte) :
    x &&& (if free then 0 else 0xFF) = 0 ↔ free = true ∨ x = 0 := by
  cases free with
  | true => simp
  | false => rw [if_neg Bool.false_ne_true, and_fullMask]; simp

/-- The words of a row: its OP, nothing in RSV, and nothing in a field its command does not use. -/
theorem accepts_iff {r : OpcodeRow} (hr : r ∈ opcodeMap) (c : Word) :
    r.accepts c = true ↔ fieldOp c = r.op ∧ unusedFieldsZero c ∧ fieldRsv c = 0 := by
  obtain ⟨hop, hn, halg, hrsv⟩ := mask_of_mem r hr
  rw [OpcodeRow.accepts, beq_iff_eq, matchBits_of_mem r hr, eq_iff_fields, fieldOp_and, fieldN_and,
    fieldAlg_and, fieldRsv_and, fieldOp_enc, fieldN_enc, fieldAlg_enc, fieldRsv_enc, hop, hn, halg,
    hrsv, and_fullMask, and_fullMask, and_operandMask, and_operandMask]
  exact and_congr_right fun hsame => by rw [unusedFieldsZero, hsame, and_assoc]

/-- What a row reads from a word has the row's OP and, of the word's operands, those it uses. -/
theorem encode_build {r : OpcodeRow} (hr : r ∈ opcodeMap) (c : Word) : encode (r.build c) =
    enc r.op (if takesN r.op then fieldN c else 0) (if takesAlg r.op then fieldAlg c else 0) := by
  fin_cases hr <;> rfl

/-- A row reads from its words the command whose encoding they are. -/
theorem encode_build_of_accepts {r : OpcodeRow} (hr : r ∈ opcodeMap) {c : Word}
    (h : r.accepts c = true) : encode (r.build c) = c := by
  obtain ⟨hop, ⟨hn, halg⟩, hrsv⟩ := (accepts_iff hr c).mp h
  have hN : (if takesN (fieldOp c) then fieldN c else 0) = fieldN c :=
    ite_eq_left_iff.mpr fun hunused => (hn.resolve_left hunused).symm
  have hAlg : (if takesAlg (fieldOp c) then fieldAlg c else 0) = fieldAlg c :=
    ite_eq_left_iff.mpr fun hunused => (halg.resolve_left hunused).symm
  rw [encode_build hr, ← hop, hN, hAlg, enc_fields hrsv]

/-- The rows that accept a word all have its OP, so there is at most one. -/
theorem eq_of_accepts {r q : OpcodeRow} (hr : r ∈ opcodeMap) (hq : q ∈ opcodeMap) {c : Word}
    (hrc : r.accepts c = true) (hqc : q.accepts c = true) : r = q :=
  List.inj_on_of_nodup_map opcodeMap_ops_nodup hr hq
    (((accepts_iff hr c).mp hrc).1.symm.trans ((accepts_iff hq c).mp hqc).1)

/-- Settles O3: the rows that accept a word have its OP, and no two rows have the same. -/
theorem noTwoRowsMatchTheSameWord : Obligations.NoTwoRowsMatchTheSameWord := by
  refine ⟨by decide, fun c => ?_⟩
  have hop : (opcodeMap.filter (·.accepts c)).map OpcodeRow.op =
      List.replicate (opcodeMap.filter (·.accepts c)).length (fieldOp c) := by
    rw [List.map_eq_replicate_iff]
    intro r hr
    obtain ⟨hmem, hrc⟩ := List.mem_filter.mp hr
    exact ((accepts_iff hmem c).mp hrc).1.symm
  rw [← List.nodup_replicate (a := fieldOp c), ← hop]
  exact opcodeMap_ops_nodup.sublist (List.filter_sublist.map OpcodeRow.op)

/-! ### The decoder against the encoder (rules R96, R101) -/

/-- The row the decoder finds is one of the map that accepts the word. -/
theorem mem_and_accepts_of_find {c : Word} {r : OpcodeRow}
    (h : opcodeMap.find? (·.accepts c) = some r) : r ∈ opcodeMap ∧ r.accepts c = true :=
  ⟨List.mem_of_find?_eq_some h, List.find?_some (p := (OpcodeRow.accepts · c)) h⟩

/-- The decoder finds the row that accepts a word, wherever it stands in the map. -/
theorem decode_of_accepts {r : OpcodeRow} (hr : r ∈ opcodeMap) {c : Word}
    (h : r.accepts c = true) : decode c = .ok (r.build c) := by
  unfold decode
  cases hfind : opcodeMap.find? (·.accepts c) with
  | some q =>
    obtain ⟨hq, hqc⟩ := mem_and_accepts_of_find hfind
    rw [eq_of_accepts hr hq h hqc]
  | none => exact absurd h (List.find?_eq_none.mp hfind r hr)

/-- What the decoder reads comes from a row that accepts the word. -/
theorem exists_row_of_decode_ok {c : Word} {i : Instr} (h : decode c = .ok i) :
    ∃ r ∈ opcodeMap, r.accepts c = true ∧ r.build c = i := by
  unfold decode at h
  split at h
  next r hfind =>
    obtain ⟨hr, hrc⟩ := mem_and_accepts_of_find hfind
    exact ⟨r, hr, hrc, Except.ok.inj h⟩
  next => cases h

/-- An encoding is decoded by the row of the map that has the command's match and mask. -/
theorem decode_encode_of_row {i : Instr} {r : OpcodeRow} (k : Nat) (hr : opcodeMap[k]? = some r)
    (hbits : (r.matchBits, r.mask) = Laws.MatchesRow.rowBits i) (hbuild : r.build (encode i) = i) :
    decode (encode i) = .ok i := by
  have hmatch := Machine.encode_matchesRow i
  rw [Laws.MatchesRow.Statement, ← hbits] at hmatch
  rw [decode_of_accepts (List.mem_of_getElem? hr) (beq_iff_eq.mpr hmatch), hbuild]

theorem decode_encode (i : Instr) : decode (encode i) = .ok i := by
  cases i with
  | shaUpdate n => exact decode_encode_of_row 2 rfl rfl (congrArg _ (fieldN_enc 0x02 n 0))
  | hmacBegin alg => exact decode_encode_of_row 4 rfl rfl (congrArg _ (fieldAlg_enc 0x10 0 alg))
  | hmacKey n => exact decode_encode_of_row 5 rfl rfl (congrArg _ (fieldN_enc 0x11 n 0))
  | hmacMsg n => exact decode_encode_of_row 7 rfl rfl (congrArg _ (fieldN_enc 0x13 n 0))
  | cmpFeed n => exact decode_encode_of_row 10 rfl rfl (congrArg _ (fieldN_enc 0x21 n 0))
  | _ => decide

theorem encode_injective : Function.Injective encode := fun i j h =>
  Except.ok.inj ((decode_encode i).symm.trans (h ▸ decode_encode j))

/-- Settles O1: a row reads the command its word encodes, and every encoding is read back. -/
theorem decodesExactlyTheEncodedWord : Obligations.DecodesExactlyTheEncodedWord := by
  intro c i
  constructor
  · intro h
    obtain ⟨r, hr, hrc, rfl⟩ := exists_row_of_decode_ok h
    exact encode_build_of_accepts hr hrc
  · rintro rfl
    exact decode_encode i

/-- Settles O5: each word is the encoding of its command. -/
theorem wordsOfEveryFamilyDecode : Obligations.WordsOfEveryFamilyDecode := by
  simp only [Obligations.WordsOfEveryFamilyDecode, decodesExactlyTheEncodedWord _ _]
  decide

/-! ### Illegal words (rule R97) -/

theorem listedOp_iff (op : Byte) : listedOp op = true ↔ ∃ r ∈ opcodeMap, r.op = op := by
  simp [listedOp, OpcodeRow.op]

/-- The opcodes that are not in the map. -/
theorem not_listedOp_iff (op : Byte) : ¬ listedOp op = true ↔
    (0x04 ≤ op.toNat ∧ op.toNat ≤ 0x0F) ∨ (0x15 ≤ op.toNat ∧ op.toNat ≤ 0x1F) ∨
      (0x23 ≤ op.toNat ∧ op.toNat ≤ 0xFE) := by
  have hlt := op.isLt
  rw [listedOp_iff, ← List.mem_map, opcodeMap_ops]
  simp only [List.mem_cons, List.not_mem_nil, or_false, BitVec.ofNat_eq_ofNat, ← BitVec.toNat_inj,
    BitVec.toNat_ofNat]
  omega

/-- The words of the map: a listed OP, nothing in RSV, and nothing in an unused field. -/
theorem exists_accepts_iff (c : Word) : (∃ r ∈ opcodeMap, r.accepts c = true) ↔
    listedOp (fieldOp c) = true ∧ unusedFieldsZero c ∧ fieldRsv c = 0 := by
  rw [listedOp_iff]
  constructor
  · rintro ⟨r, hr, hrc⟩
    obtain ⟨hop, hfields⟩ := (accepts_iff hr c).mp hrc
    exact ⟨⟨r, hr, hop.symm⟩, hfields⟩
  · rintro ⟨⟨r, hr, hop⟩, hfields⟩
    exact ⟨r, hr, (accepts_iff hr c).mpr ⟨hop.symm, hfields⟩⟩

/-- A word of no row is illegal, with its kind as the error. -/
theorem decode_eq_error_iff (c : Word) (e : IllegalWord) : decode c = .error e ↔
    ¬ (listedOp (fieldOp c) = true ∧ unusedFieldsZero c ∧ fieldRsv c = 0) ∧ illegalKind c = e := by
  rw [← exists_accepts_iff, ← List.find?_isSome]
  unfold decode
  cases opcodeMap.find? (·.accepts c) <;> simp

/-- The kind of an illegal word is the first thing that is wrong with it. -/
theorem illegalKind_cases (c : Word) :
    (¬ listedOp (fieldOp c) = true ∧ illegalKind c = .unknownOp) ∨
    (listedOp (fieldOp c) = true ∧ fieldRsv c ≠ 0 ∧ illegalKind c = .reservedNonzero) ∨
    (listedOp (fieldOp c) = true ∧ fieldRsv c = 0 ∧ illegalKind c = .unusedField) := by
  unfold illegalKind
  split_ifs with hop hrsv
  · exact .inl ⟨by simpa using hop, rfl⟩
  · exact .inr (.inl ⟨by simpa using hop, hrsv, rfl⟩)
  · exact .inr (.inr ⟨by simpa using hop, not_not.mp hrsv, rfl⟩)

theorem decode_eq_unknownOp_iff (c : Word) :
    decode c = .error .unknownOp ↔ ¬ listedOp (fieldOp c) = true := by
  rw [decode_eq_error_iff]
  obtain ⟨hop, hkind⟩ | ⟨hop, -, hkind⟩ | ⟨hop, -, hkind⟩ := illegalKind_cases c <;>
    simp [hop, hkind]

theorem decode_eq_reservedNonzero_iff (c : Word) :
    decode c = .error .reservedNonzero ↔ listedOp (fieldOp c) = true ∧ fieldRsv c ≠ 0 := by
  rw [decode_eq_error_iff]
  obtain ⟨hop, hkind⟩ | ⟨hop, hrsv, hkind⟩ | ⟨hop, hrsv, hkind⟩ := illegalKind_cases c
  · simp [hop, hkind]
  · exact iff_of_true ⟨fun h => hrsv h.2.2, hkind⟩ ⟨hop, hrsv⟩
  · simp [hrsv, hkind]

theorem decode_eq_unusedField_iff (c : Word) : decode c = .error .unusedField ↔
    listedOp (fieldOp c) = true ∧ fieldRsv c = 0 ∧ ¬ unusedFieldsZero c := by
  rw [decode_eq_error_iff]
  obtain ⟨hop, hkind⟩ | ⟨hop, hrsv, hkind⟩ | ⟨hop, hrsv, hkind⟩ := illegalKind_cases c
  · simp [hop, hkind]
  · exact iff_of_false (fun h => by simp [hkind] at h) fun h => hrsv h.2.1
  · simp [hop, hrsv, hkind]

theorem not_unusedFieldsZero_iff (c : Word) : ¬ unusedFieldsZero c ↔
    (fieldN c ≠ 0 ∧ fieldOp c ≠ 0x02 ∧ fieldOp c ≠ 0x11 ∧ fieldOp c ≠ 0x13 ∧ fieldOp c ≠ 0x21) ∨
      (fieldAlg c ≠ 0 ∧ fieldOp c ≠ 0x10) := by
  simp only [unusedFieldsZero, takesN, takesAlg, Bool.or_eq_true, beq_iff_eq]
  tauto

end Sys2Proof

namespace Sys2Proof.Machine

theorem encode_softReset : encode .softReset = 0x000000FF := by decide

/-- A word that decodes is served as its command, in every state: while ERR = 1 both ignore every word
but SOFT_RESET's (rules R96, R264). -/
theorem serveCommand_of_decode_ok {c : Word} {i : Instr} (h : decode c = .ok i) (s : State) :
    serveCommand c s = exec i s := by
  cases hl : s.err.locked with
  | false => simp [serveCommand, hl, h]
  | true =>
    obtain rfl : encode i = c := (decodesExactlyTheEncodedWord c i).mp h
    by_cases hi : i = .softReset
    · rw [hi, serveCommand, if_pos hl, if_pos encode_softReset]
    · have hword : encode i ≠ 0x000000FF := fun hc =>
        hi (encode_injective (hc.trans encode_softReset.symm))
      rw [serveCommand, if_pos hl, if_neg hword, exec_eq_runCommand hi, runCommand_locked _ _ _ s hl]

/-- An unlocked block answers an illegal word with ILLEGAL_CMD (rule R97). -/
theorem serveCommand_of_decode_error {c : Word} {e : IllegalWord} (h : decode c = .error e)
    {s : State} (hl : s.err.locked = false) :
    serveCommand c s = .next (raiseErr .illegalCmd c s) := by
  simp [serveCommand, hl, h]

/-- Settles O2: the words of no row, sorted by the first thing that is wrong with them. -/
theorem illegalWordsAreTheThreeKinds : Obligations.IllegalWordsAreTheThreeKinds := by
  have hlisted (c : Word) := not_iff_comm.mp (not_listedOp_iff (fieldOp c))
  refine ⟨fun c => ?_, fun c => ?_, fun c => ?_, fun c e s hl h => serveCommand_of_decode_error h hl⟩
  · exact (decode_eq_unknownOp_iff c).trans (not_listedOp_iff _)
  · exact (decode_eq_reservedNonzero_iff c).trans (and_congr_left' (hlisted c).symm)
  · rw [decode_eq_unusedField_iff, not_unusedFieldsZero_iff]
    exact and_congr_left' (hlisted c).symm

/-- Settles O36: the step serves the write, and a word that decodes is served as its command. -/
theorem stepRunsTheDecodedCommand : Obligations.StepRunsTheDecodedCommand := by
  intro s c i rest hport hdecode
  have hstep : step s = answer .written (exec i (s.withPort rest)) := by
    rw [step_cons s _ rest hport, serve_write_accepted 0x14 4 c _ rfl,
      ← serveCommand_of_decode_ok hdecode]
    rfl
  rw [hstep]
  rfl

end Sys2Proof.Machine
end

section
/-!
The bit functions and the ROMs (obligations O25, O26, O27).
-/

namespace Sys2Proof.Machine

/-! ### The bit functions (rules R123–R129) -/

/-- `rotr` is the rotation of the bit vector (rule R123). -/
theorem rotr_eq_rotateRight (x : Word) {n : Nat} (h : n < 32) : rotr x n = x.rotateRight n :=
  (BitVec.rotateRight_eq_rotateRightAux_of_lt h).symm

/-- Ch selects: each bit of e chooses the bit of f or of g (rule R128). -/
theorem getLsbD_choose (e f g : Word) {i : Nat} (hi : i < 32) :
    (choose e f g).getLsbD i = if e.getLsbD i then f.getLsbD i else g.getLsbD i := by
  rw [choose, BitVec.getLsbD_xor, BitVec.getLsbD_and, BitVec.getLsbD_and, BitVec.getLsbD_not]
  cases e.getLsbD i <;> simp [hi]

/-- Maj is the majority of three bits (rule R129). -/
theorem getLsbD_majority (a b c : Word) (i : Nat) : (majority a b c).getLsbD i =
    decide (2 ≤ (a.getLsbD i).toNat + (b.getLsbD i).toNat + (c.getLsbD i).toNat) := by
  cases ha : a.getLsbD i <;> cases hb : b.getLsbD i <;> cases hc : c.getLsbD i <;>
    simp [majority, ha, hb, hc]

theorem getLsbD_fullWord {i : Nat} (hi : i < 32) : (0xFFFFFFFF : Word).getLsbD i = true :=
  (BitVec.getLsbD_allOnes (v := 32)).trans (decide_eq_true hi)

theorem choose_zero (y z : Word) : choose 0 y z = z := by
  refine BitVec.eq_of_getLsbD_eq fun i hi => ?_
  simp [getLsbD_choose _ _ _ hi]

theorem choose_allOnes (y z : Word) : choose 0xFFFFFFFF y z = y := by
  refine BitVec.eq_of_getLsbD_eq fun i hi => ?_
  rw [getLsbD_choose _ _ _ hi, if_pos (getLsbD_fullWord hi)]

theorem majority_self (x y : Word) : majority x x y = x := by
  refine BitVec.eq_of_getLsbD_eq fun i _ => ?_
  rw [getLsbD_majority]
  cases x.getLsbD i <;> cases y.getLsbD i <;> rfl

theorem majority_zero_allOnes (z : Word) : majority 0 0xFFFFFFFF z = z := by
  refine BitVec.eq_of_getLsbD_eq fun i hi => ?_
  rw [getLsbD_majority, getLsbD_fullWord hi]
  cases z.getLsbD i <;> simp

/-- Settles O25: the rotations of the bit vector, and Ch and Maj bit by bit. -/
theorem bitFunctionsAreAsTabulated : Obligations.BitFunctionsAreAsTabulated := by
  refine ⟨fun x => ?_, fun e f g i hi => ⟨getLsbD_choose e f g hi, getLsbD_majority e f g i⟩,
    by decide, fun x y z => ⟨choose_zero y z, choose_allOnes y z, majority_self x y,
      majority_zero_allOnes z⟩, by decide⟩
  simp [smallSigma0, smallSigma1, bigSigma0, bigSigma1, rotr_eq_rotateRight]

/-! ### The constants (rules R120–R122) -/

/-- The first numbers with a property, in order, are those a search below `n` finds. -/
theorem map_nth_range_count (p : Nat → Prop) [DecidablePred p] (n : Nat) :
    (List.range (Nat.count p n)).map (Nat.nth p) = (List.range n).filter (p ·) := by
  induction n with
  | zero => rfl
  | succ n ih =>
    rw [Nat.count_succ, List.range_succ, List.filter_append, ← ih]
    by_cases hn : p n
    · simp [hn, List.range_succ, Nat.nth_count hn]
    · simp [hn]

/-- A number below 18² is prime when nothing below 18 but itself divides it. -/
theorem prime_iff_of_lt {n : Nat} (hn : n < 18 ^ 2) :
    n.Prime ↔ 2 ≤ n ∧ ∀ d < 18, 2 ≤ d → d ∣ n → d = n := by
  constructor
  · intro h
    exact ⟨h.two_le, fun d _ hd hdvd => (h.eq_one_or_self_of_dvd d hdvd).resolve_left (by omega)⟩
  · rintro ⟨h2, h⟩
    refine Nat.prime_def_le_sqrt.mpr ⟨h2, fun d hd hle hdvd => ?_⟩
    have hself := h d (hle.trans_lt (Nat.sqrt_lt'.mpr hn)) hd hdvd
    have hsqrt : n.sqrt < n := Nat.sqrt_lt_self h2
    omega

/-- The primes below 312 are those the round constants are derived from. -/
theorem filter_prime_range_312 : (List.range 312).filter (Nat.Prime ·) = kTable.map Prod.fst := by
  have hfilter : (List.range 312).filter (Nat.Prime ·) =
      (List.range 312).filter fun n => 2 ≤ n ∧ ∀ d < 18, 2 ≤ d → d ∣ n → d = n :=
    List.filter_congr fun n hn => decide_eq_decide.mpr <|
      prime_iff_of_lt ((List.mem_range.mp hn).trans (by decide))
  rw [hfilter]
  decide +kernel

/-- The column p of the table of rule R121 is the first 64 primes. -/
theorem kTable_primes : kTable.map Prod.fst = (List.range 64).map (Nat.nth Nat.Prime) := by
  have hmap := map_nth_range_count Nat.Prime 312
  rw [filter_prime_range_312] at hmap
  have hcount : Nat.count Nat.Prime 312 = kTable.length := by
    simpa using congrArg List.length hmap
  rw [← hmap, hcount]
  rfl

/-- The column p of the table of rule R120 is the first 8 primes. -/
theorem h0Table_primes : h0Table.map Prod.fst = (List.range 8).map (Nat.nth Nat.Prime) := by
  have htake : h0Table.map Prod.fst = (kTable.map Prod.fst).take 8 := rfl
  rw [htake, kTable_primes, ← List.map_take]
  rfl

theorem kTable_roots : ∀ e ∈ kTable, e.2.toNat = Nat.nthRoot 3 (e.1 * 2 ^ 96) % 2 ^ 32 := by
  decide +kernel

theorem h0Table_roots : ∀ e ∈ h0Table, e.2.toNat = Nat.nthRoot 2 (e.1 * 2 ^ 64) % 2 ^ 32 := by
  decide +kernel

/-- What a ROM holds, when the table it is made of has the first primes in one column and their scaled
k-th roots, as 32 bits, in the other. -/
theorem exists_root_of_table {size k scale : Nat} {table : List (Nat × Word)}
    {rom : Vector Word size} (hk : k ≠ 0) (hrom : rom.toList = table.map Prod.snd)
    (hprimes : table.map Prod.fst = (List.range size).map (Nat.nth Nat.Prime))
    (hroots : ∀ e ∈ table, e.2.toNat = Nat.nthRoot k (e.1 * scale) % 2 ^ 32)
    {i : Nat} (hi : i < size) :
    ∃ r : Nat, r ^ k ≤ Nat.nth Nat.Prime i * scale ∧ Nat.nth Nat.Prime i * scale < (r + 1) ^ k ∧
      (rom.getD i 0).toNat = r % 2 ^ 32 := by
  have hlen : i < table.length := by
    have hlengths : table.length = size := by simpa using congrArg List.length hprimes
    omega
  have hprime : Nat.nth Nat.Prime i = table[i].1 := by
    simpa [hi, hlen, eq_comm] using congrArg (·[i]?) hprimes
  have hword : rom.getD i 0 = table[i].2 := by
    simpa [Vector.getD, hi, hlen] using congrArg (·[i]?) hrom
  refine ⟨Nat.nthRoot k (table[i].1 * scale), ?_, ?_, ?_⟩
  · rw [hprime]
    exact Nat.pow_nthRoot_le (.inl hk)
  · rw [hprime]
    exact Nat.lt_pow_nthRoot_add_one hk _
  · rw [hword]
    exact hroots _ (List.getElem_mem hlen)

/-- Settles O26: the table of rule R120 has the first 8 primes and their scaled square roots. -/
theorem initialWordsComeFromSquareRoots : Obligations.InitialWordsComeFromSquareRoots :=
  fun _ hi => exists_root_of_table two_ne_zero rfl h0Table_primes h0Table_roots hi

/-- Settles O27: the table of rule R121 has the first 64 primes and their scaled cube roots. -/
theorem roundConstantsComeFromCubeRoots : Obligations.RoundConstantsComeFromCubeRoots :=
  fun _ ht => exists_root_of_table three_ne_zero rfl kTable_primes kTable_roots ht

end Sys2Proof.Machine
end

section
/-!
One compression: the finished schedule, and the 64 rounds over the constants and the schedule, are those
of the reference block function (obligations O23, O24).
-/

namespace Sys2Proof.Machine

/-! ### The finished schedule (rules R131, R132) -/

/-- Words written in order from `start`, each computed from the schedule as it then is. -/
def fillWords (f : Vector Word 64 → Nat → Word) (start len : Nat) (w : Vector Word 64) :
    Vector Word 64 :=
  (List.range' start len).foldl (fun w t => w.setIfInBounds t (f w t)) w

theorem formWords_eq_fillWords (b : Vector Byte 64) (w : Vector Word 64) :
    formWords b w = fillWords (fun _ j => formWord b j) 0 16 w := by
  rw [formWords, fillWords, List.range_eq_range']

theorem expandSchedule_eq_fillWords (w : Vector Word 64) :
    expandSchedule w = fillWords scheduleWord 16 48 w := rfl

theorem fillWords_succ (f : Vector Word 64 → Nat → Word) (start len : Nat) (w : Vector Word 64) :
    fillWords f start (len + 1) w = (fillWords f start len w).setIfInBounds (start + len)
      (f (fillWords f start len w) (start + len)) := by
  simp [fillWords, List.range'_concat]

theorem sameBelow_setIfInBounds_self (w : Vector Word 64) (t : Nat) (a : Word) :
    sameBelow t (w.setIfInBounds t a) w := by
  intro j hj
  rw [getD_setIfInBounds, if_neg (by omega)]

/-- The words before the first one written stay. -/
theorem sameBelow_fillWords (f : Vector Word 64 → Nat → Word) (start len : Nat)
    (w : Vector Word 64) : sameBelow start (fillWords f start len w) w := by
  induction len with
  | zero => exact fun _ _ => rfl
  | succ len ih =>
    intro j hj
    rw [fillWords_succ, sameBelow_setIfInBounds_self _ _ _ j (by omega), ih j hj]

/-- Where each word depends only on the words before it, it is also its value computed from the
finished schedule. -/
theorem getD_fillWords {f : Vector Word 64 → Nat → Word} {start : Nat}
    (hf : ∀ t, start ≤ t → ∀ w x, sameBelow t w x → f w t = f x t) {len : Nat}
    (hlen : start + len ≤ 64) (w : Vector Word 64) {t : Nat} (ht : start ≤ t)
    (hlt : t < start + len) :
    (fillWords f start len w).getD t 0 = f (fillWords f start len w) t := by
  induction len with
  | zero => omega
  | succ len ih =>
    rw [fillWords_succ]
    have hsame := sameBelow_setIfInBounds_self (fillWords f start len w) (start + len)
      (f (fillWords f start len w) (start + len))
    by_cases hlast : t = start + len
    · subst hlast
      rw [hf _ ht _ _ hsame, getD_setIfInBounds, if_pos ⟨rfl, by omega⟩]
    · rw [hf t ht _ _ fun j hj => hsame j (by omega), hsame t (by omega)]
      exact ih (by omega) (by omega)

/-- The first 16 words of the finished schedule are the words of the block (rule R131). -/
theorem expandSchedule_formWords_of_lt (b : Vector Byte 64) (old : Vector Word 64) {j : Nat}
    (hj : j < 16) : (expandSchedule (formWords b old)).getD j 0 = formWord b j := by
  rw [expandSchedule_eq_fillWords, sameBelow_fillWords _ 16 48 _ j hj, formWords_eq_fillWords]
  exact getD_fillWords (fun _ _ _ _ _ => rfl) (by omega) old (Nat.zero_le j) (by omega)

/-- The later words satisfy the recurrence of rule R132. -/
theorem expandSchedule_recurrence (w : Vector Word 64) {t : Nat} (h16 : 16 ≤ t) (h64 : t < 64) :
    (expandSchedule w).getD t 0 = scheduleWord (expandSchedule w) t :=
  getD_fillWords (fun _ ht _ _ h => scheduleWord_congr ht h) (by omega) w h16 h64

/-- Settles O23: words are written in increasing order, each from words that stay as they are. -/
theorem scheduleSatisfiesItsRecurrence : Obligations.ScheduleSatisfiesItsRecurrence := fun b old =>
  ⟨_, rfl, fun _ hj => expandSchedule_formWords_of_lt b old hj,
    fun _ h16 h64 => expandSchedule_recurrence _ h16 h64⟩

/-! ### The schedule of the reference (rules R131, R132) -/

theorem getD_toList {α : Type} {n : Nat} (v : Vector α n) (i : Nat) (fallback : α) :
    v.toList.getD i fallback = v.getD i fallback := by
  by_cases hi : i < n <;> simp [Vector.getD, hi]

theorem toList_eq_map_getD {α : Type} {n : Nat} (v : Vector α n) (fallback : α) :
    v.toList = (List.range n).map fun i => v.getD i fallback := by
  refine List.ext_getElem (by simp) fun i hi _ => ?_
  have hlt : i < n := by simpa using hi
  simp [Vector.getD, hlt]

/-- The words of a sequence of `4 * k` bytes. -/
theorem wordsOf_eq_map (k : Nat) (bytes : List Byte) (h : bytes.length = 4 * k) :
    Reference.wordsOf bytes = (List.range k).map fun j =>
      wordOfBytes (bytes.getD (4 * j) 0) (bytes.getD (4 * j + 1) 0) (bytes.getD (4 * j + 2) 0)
        (bytes.getD (4 * j + 3) 0) := by
  induction k generalizing bytes with
  | zero => simp [List.length_eq_zero_iff.mp h, Reference.wordsOf]
  | succ k ih =>
    match bytes, h with
    | b0 :: b1 :: b2 :: b3 :: rest, h =>
      rw [Reference.wordsOf, ih rest (by simpa [Nat.mul_succ] using h), List.range_succ_eq_map]
      simp [Nat.mul_succ]

/-- The words of a schedule from `t - 1` down to 0, as the reference holds them. -/
def newestFirst (w : Vector Word 64) (t : Nat) : List Word :=
  ((List.range t).map fun j => w.getD j 0).reverse

theorem newestFirst_succ (w : Vector Word 64) (t : Nat) :
    newestFirst w (t + 1) = w.getD t 0 :: newestFirst w t := by
  simp [newestFirst, List.range_succ]

theorem getD_newestFirst (w : Vector Word 64) {t i : Nat} (hi : i < t) :
    (newestFirst w t).getD i 0 = w.getD (t - 1 - i) 0 := by
  simp [newestFirst, hi]

/-- The reference's next word is the scheduler's. -/
theorem nextWord_newestFirst (w : Vector Word 64) {t : Nat} (ht : 16 ≤ t) :
    Reference.nextWord (newestFirst w t) = scheduleWord w t := by
  rw [Reference.nextWord, scheduleWord, getD_newestFirst w (by omega), getD_newestFirst w (by omega),
    getD_newestFirst w (by omega), getD_newestFirst w (by omega)]
  simp only [Nat.sub_sub]

/-- The reference extends the first words of a finished schedule by its next ones. -/
theorem extendSchedule_newestFirst (w : Vector Word 64) (k : Nat) {t : Nat} (ht : 16 ≤ t)
    (h : t + k ≤ 64) : Reference.extendSchedule k (newestFirst (expandSchedule w) t) =
      newestFirst (expandSchedule w) (t + k) := by
  induction k generalizing t with
  | zero => rfl
  | succ k ih =>
    rw [Reference.extendSchedule, nextWord_newestFirst _ ht,
      ← expandSchedule_recurrence w ht (by omega), ← newestFirst_succ, ih (by omega) (by omega),
      Nat.succ_add_eq_add_succ]

theorem newestFirst_all (w : Vector Word 64) : (newestFirst w 64).reverse = w.toList := by
  rw [newestFirst, List.reverse_reverse, ← toList_eq_map_getD]

/-- The words of a block, as the reference reads them, are the scheduler's first 16. -/
theorem wordsOf_eq_newestFirst (b : Vector Byte 64) (old : Vector Word 64) :
    (Reference.wordsOf b.toList).reverse = newestFirst (expandSchedule (formWords b old)) 16 := by
  rw [wordsOf_eq_map 16 b.toList (by simp), newestFirst]
  refine congrArg List.reverse (List.map_congr_left fun j hj => ?_)
  rw [expandSchedule_formWords_of_lt b old (List.mem_range.mp hj)]
  simp only [getD_toList, formWord]

/-- The scheduler's W is the schedule of the block as the reference defines it. -/
theorem toList_expandSchedule (b : Vector Byte 64) (old : Vector Word 64) :
    (expandSchedule (formWords b old)).toList = Reference.schedule b.toList := by
  rw [Reference.schedule, wordsOf_eq_newestFirst b old,
    extendSchedule_newestFirst _ 48 le_rfl le_rfl, newestFirst_all]

/-! ### The rounds (rules R133, R134) -/

/-- The working variables after rounds over given constants and schedule words. -/
def roundsOver (kws : List (Word × Word)) (v : Working) : Working :=
  kws.foldl (fun v kw => roundWith kw.1 kw.2 v) v

/-- The rounds from round t on take the constants and the schedule words from place t on. -/
theorem Datapath.rounds_wv (k : Nat) (d : Datapath) (h : d.rc.toNat + k = 64) :
    (Datapath.rounds k d).wv =
      roundsOver ((kRom.toList.zip d.w.toList).drop d.rc.toNat) d.wv := by
  induction k generalizing d with
  | zero =>
    rw [List.drop_eq_nil_of_le (by simp; omega)]
    rfl
  | succ k ih =>
    have hrc : d.round.rc.toNat = d.rc.toNat + 1 := by
      have hone : (1 : BitVec 7).toNat = 1 := rfl
      rw [Datapath.round, BitVec.toNat_add, hone]
      omega
    have hlt : d.rc.toNat < 64 := by omega
    rw [Datapath.rounds, ih d.round (by omega), hrc, Datapath.round_w,
      List.drop_eq_getElem_cons (i := d.rc.toNat) (by simpa using hlt)]
    simp [roundsOver, Datapath.round, Vector.getD, hlt]

/-- The working variables at the end of a compression of BUF (rules R133, R134). -/
def Datapath.lastWorking (d : Datapath) : Working :=
  roundsOver (kRom.toList.zip (Reference.schedule d.buf.toList)) (loadWorking d.h)

theorem compressBlock_buf (d : Datapath) :
    Reference.compressBlock d.h d.buf.toList = feedForward d.h d.lastWorking := rfl

/-- A compression, register by register (rule R136). -/
theorem Datapath.compress_eq (d : Datapath) : d.compress = { d with
    h := Reference.compressBlock d.h d.buf.toList
    w := expandSchedule (formWords d.buf d.w)
    wv := d.lastWorking
    rc := 0
    compressions := d.compressions + 1 } := by
  have hwv : (Datapath.rounds 64 d.schedule).wv = d.lastWorking := by
    rw [Datapath.rounds_wv 64 d.schedule rfl, Datapath.lastWorking, ← toList_expandSchedule d.buf d.w]
    rfl
  obtain ⟨wv, rc, hrounds⟩ := Datapath.rounds_frame 64 d.schedule
  rw [hrounds] at hwv
  rw [Datapath.compress, hrounds, compressBlock_buf, ← hwv]
  rfl

theorem Datapath.compress_h (d : Datapath) :
    d.compress.h = Reference.compressBlock d.h d.buf.toList := by
  rw [Datapath.compress_eq]

/-- Settles O24: the schedule and the rounds are those of the reference. -/
theorem compressionMatchesTheBlockFunction : Obligations.CompressionMatchesTheBlockFunction :=
  fun d => ⟨d.lastWorking, d.compress_eq, by rw [d.compress_h, compressBlock_buf],
    by rw [d.compress_eq, toList_expandSchedule]⟩

end Sys2Proof.Machine
end

section
/-!
Placing, absorbing and padding bytes: each operation against the byte sequence it has taken, up to the
digest of a whole message (obligations O19, O20, O21).
-/

namespace Sys2Proof.Machine

/-! ### core_init, pad_byte and absorb (rules R138–R140, R142) -/

/-- Settles O19: both are assignments of registers. -/
theorem coreInitLoadsAndZeroiseClears : Obligations.CoreInitLoadsAndZeroiseClears :=
  fun _ => ⟨rfl, rfl⟩

/-- Settles O20: the two branches of pad_byte; a compression leaves BUF alone. -/
theorem absorbPlacesAndCountsOneByte : Obligations.AbsorbPlacesAndCountsOneByte := by
  intro b d
  refine ⟨fun h => Datapath.padByte_partial b d (by omega), fun h => ?_, Datapath.padByte_len b d,
    rfl, by rw [Datapath.absorb_len, BitVec.toNat_add]; rfl⟩
  refine ⟨{ d with buf := d.buf.setIfInBounds d.blen.toNat b }, ?_, fun j hj => ?_, rfl,
    Datapath.padByte_full b d (by omega), ?_⟩
  · rw [getD_setIfInBounds, if_pos ⟨h, by omega⟩]
  · rw [getD_setIfInBounds, if_neg (by omega)]
  · simp [Datapath.padByte_full b d (by omega)]

/-- A datapath with another bit count. -/
def Datapath.withLen (d : Datapath) (x : DWord) : Datapath := { d with len := x }

theorem Datapath.compress_withLen (d : Datapath) (x : DWord) :
    (d.withLen x).compress = d.compress.withLen x := by
  rw [d.compress_eq, (d.withLen x).compress_eq]
  rfl

/-- pad_byte neither reads nor writes LEN (rule R139). -/
theorem Datapath.padByte_withLen (b : Byte) (d : Datapath) (x : DWord) :
    (d.withLen x).padByte b = (d.padByte b).withLen x := by
  by_cases h : d.blen.toNat + 1 = 64
  · have hcompress := Datapath.compress_withLen
      { d with buf := d.buf.setIfInBounds d.blen.toNat b } x
    rw [d.padByte_full b h, (d.withLen x).padByte_full b h]
    exact congrArg (fun e : Datapath => { e with blen := 0 }) hcompress
  · rw [d.padByte_partial b h, (d.withLen x).padByte_partial b h]
    rfl

theorem Datapath.padAll_withLen (bytes : List Byte) (d : Datapath) (x : DWord) :
    (d.withLen x).padAll bytes = (d.padAll bytes).withLen x := by
  induction bytes generalizing d with
  | nil => rfl
  | cons b bytes ih => rw [padAll_cons, padAll_cons, padByte_withLen, ih]

theorem Datapath.padAll_len (bytes : List Byte) (d : Datapath) : (d.padAll bytes).len = d.len := by
  induction bytes generalizing d with
  | nil => rfl
  | cons b bytes ih => rw [padAll_cons, ih, padByte_len]

/-- Absorbing bytes is placing them and counting their bits (rule R140). -/
theorem Datapath.absorbAll_eq (bytes : List Byte) (d : Datapath) : d.absorbAll bytes =
    (d.padAll bytes).withLen (d.len + BitVec.ofNat 64 (8 * bytes.length)) := by
  induction bytes generalizing d with
  | nil => simp [withLen]
  | cons b bytes ih =>
    have habsorb : d.absorb b = (d.padByte b).withLen (d.len + 8) := d.padByte_withLen b (d.len + 8)
    have hlen : ((d.padByte b).withLen (d.len + 8)).len + BitVec.ofNat 64 (8 * bytes.length) =
        d.len + BitVec.ofNat 64 (8 * (b :: bytes).length) := by
      rw [List.length_cons, Nat.mul_succ, Nat.add_comm, BitVec.ofNat_add]
      exact BitVec.add_assoc ..
    rw [absorbAll_cons, habsorb, ih, hlen, padAll_withLen]
    rfl

/-! ### BLEN and the number of compressions (rules R139, R146) -/

theorem Datapath.padByte_compressions (b : Byte) (d : Datapath) :
    (d.padByte b).compressions = d.compressions + (d.blen.toNat + 1) / 64 := by
  by_cases h : d.blen.toNat + 1 = 64
  · simp [d.padByte_full b h, h]
  · have hlt : d.blen.toNat + 1 < 64 := by omega
    rw [d.padByte_partial b h, Nat.div_eq_of_lt hlt]
    rfl

theorem Datapath.padAll_blen (bytes : List Byte) (d : Datapath) :
    (d.padAll bytes).blen.toNat = (d.blen.toNat + bytes.length) % 64 := by
  induction bytes generalizing d with
  | nil => exact (Nat.mod_eq_of_lt d.blen.isLt).symm
  | cons b bytes ih =>
    rw [padAll_cons, ih, padByte_blen, List.length_cons]
    omega

theorem Datapath.padAll_compressions (bytes : List Byte) (d : Datapath) :
    (d.padAll bytes).compressions = d.compressions + (d.blen.toNat + bytes.length) / 64 := by
  induction bytes generalizing d with
  | nil => simp [Nat.div_eq_of_lt d.blen.isLt]
  | cons b bytes ih =>
    rw [padAll_cons, ih, padByte_compressions, padByte_blen, List.length_cons]
    omega

theorem Datapath.absorbAll_blen (bytes : List Byte) (d : Datapath) :
    (d.absorbAll bytes).blen.toNat = (d.blen.toNat + bytes.length) % 64 := by
  rw [absorbAll_eq, ← padAll_blen]
  rfl

theorem Datapath.absorbAll_compressions (bytes : List Byte) (d : Datapath) :
    (d.absorbAll bytes).compressions = d.compressions + (d.blen.toNat + bytes.length) / 64 := by
  rw [absorbAll_eq, ← padAll_compressions]
  rfl

/-! ### Blocks of a byte sequence (rule R143) -/

theorem blocksOf_succ (k : Nat) (bytes : List Byte) : Reference.blocksOf (k + 1) bytes =
    Reference.blocksOf k bytes ++ [(bytes.drop (64 * k)).take 64] := by
  induction k generalizing bytes with
  | zero => rfl
  | succ k ih =>
    rw [Reference.blocksOf, ih, List.drop_drop, Nat.add_comm 64, ← Nat.mul_succ]
    rfl

/-- The whole blocks of a sequence stay when more bytes follow. -/
theorem blocksOf_append {k : Nat} {xs : List Byte} (h : 64 * k ≤ xs.length) (ys : List Byte) :
    Reference.blocksOf k (xs ++ ys) = Reference.blocksOf k xs := by
  induction k generalizing xs with
  | zero => rfl
  | succ k ih =>
    rw [Reference.blocksOf, Reference.blocksOf, List.take_append_of_le_length (by omega),
      List.drop_append_of_le_length (by omega), ih (by rw [List.length_drop]; omega)]

theorem hashBlocks_concat (blocks : List (List Byte)) (block : List Byte) :
    Reference.hashBlocks (blocks ++ [block]) =
      Reference.compressBlock (Reference.hashBlocks blocks) block := by
  simp [Reference.hashBlocks]

/-! ### What the placed bytes are (rules R137–R139) -/

/-- The datapath holds exactly the bytes `m`, hashed or buffered: what `Datapath.Absorbed` says of H,
BUF and BLEN. -/
structure Datapath.Placed (m : List Byte) (d : Datapath) : Prop where
  h : d.h = Reference.hashBlocks (Reference.blocksOf (m.length / 64) m)
  blen : d.blen.toNat = m.length % 64
  buf : ∀ j, j < m.length % 64 → d.buf.getD j 0 = m.getD (64 * (m.length / 64) + j) 0

theorem Datapath.absorbed_iff (m : List Byte) (d : Datapath) :
    d.Absorbed m ↔ d.Placed m ∧ d.len.toNat = 8 * m.length % 2 ^ 64 := by
  constructor
  · rintro ⟨hh, hblen, hbuf, hlen⟩
    exact ⟨⟨hh, hblen, hbuf⟩, hlen⟩
  · rintro ⟨⟨hh, hblen, hbuf⟩, hlen⟩
    exact ⟨hh, hblen, hbuf, hlen⟩

theorem Datapath.placed_withLen {m : List Byte} {d : Datapath} (h : d.Placed m) (x : DWord) :
    (d.withLen x).Placed m := ⟨h.h, h.blen, h.buf⟩

/-- BUF with one more byte holds the bytes past the whole blocks, and that one. -/
theorem Datapath.getD_buf_of_placed {m : List Byte} {d : Datapath} (hd : d.Placed m) (b : Byte)
    {j : Nat} (hj : j ≤ m.length % 64) :
    (d.buf.setIfInBounds d.blen.toNat b).getD j 0 =
      (m ++ [b]).getD (64 * (m.length / 64) + j) 0 := by
  have hsplit := Nat.div_add_mod m.length 64
  rw [getD_setIfInBounds, hd.blen]
  by_cases hlast : m.length % 64 = j
  · rw [if_pos ⟨hlast, by omega⟩, ← hlast, hsplit]
    simp
  · rw [if_neg (by tauto), hd.buf j (by omega), List.getD_append _ _ _ _ (by omega)]

/-- BUF filled by a byte is the last block of the sequence. -/
theorem Datapath.toList_buf_of_placed {m : List Byte} {d : Datapath} (hd : d.Placed m) (b : Byte)
    (hfull : m.length % 64 + 1 = 64) : (d.buf.setIfInBounds d.blen.toNat b).toList =
      ((m ++ [b]).drop (64 * (m.length / 64))).take 64 := by
  have hsplit := Nat.div_add_mod m.length 64
  refine List.ext_getElem (by simp; omega) fun j hj hj' => ?_
  have hlt : j < 64 := by simpa using hj
  have hin : 64 * (m.length / 64) + j < (m ++ [b]).length := by simp; omega
  have hbuf := Datapath.getD_buf_of_placed hd b (j := j) (by omega)
  rw [← getD_toList, ← List.getElem_eq_getD (h := hj), ← List.getElem_eq_getD (h := hin)] at hbuf
  rw [hbuf, List.getElem_take, List.getElem_drop]

/-- pad_byte appends one byte (rule R139). -/
theorem Datapath.placed_padByte {m : List Byte} {d : Datapath} (hd : d.Placed m) (b : Byte) :
    (d.padByte b).Placed (m ++ [b]) := by
  have hblocks := blocksOf_append (Nat.mul_div_le m.length 64) [b]
  have hblen : (d.padByte b).blen.toNat = (m ++ [b]).length % 64 := by
    rw [padByte_blen, hd.blen, List.length_append, List.length_singleton]
    omega
  by_cases hfull : m.length % 64 + 1 = 64
  · have hdiv : (m ++ [b]).length / 64 = m.length / 64 + 1 := by
      rw [List.length_append, List.length_singleton]
      omega
    refine ⟨?_, hblen, fun j hj => ?_⟩
    · rw [hdiv, blocksOf_succ, hblocks, hashBlocks_concat, ← hd.h,
        ← Datapath.toList_buf_of_placed hd b hfull, d.padByte_full b (by rw [hd.blen, hfull])]
      exact Datapath.compress_h { d with buf := d.buf.setIfInBounds d.blen.toNat b }
    · rw [List.length_append, List.length_singleton] at hj
      omega
  · have hdiv : (m ++ [b]).length / 64 = m.length / 64 := by
      rw [List.length_append, List.length_singleton]
      omega
    refine ⟨?_, hblen, fun j hj => ?_⟩
    · rw [hdiv, hblocks, ← hd.h, d.padByte_partial b (by rwa [hd.blen])]
    · rw [List.length_append, List.length_singleton] at hj
      rw [hdiv, d.padByte_partial b (by rwa [hd.blen])]
      exact Datapath.getD_buf_of_placed hd b (by omega)

theorem Datapath.placed_padAll {m : List Byte} {d : Datapath} (hd : d.Placed m)
    (bytes : List Byte) : (d.padAll bytes).Placed (m ++ bytes) := by
  induction bytes generalizing m d with
  | nil => simpa using hd
  | cons b bytes ih => simpa using ih (Datapath.placed_padByte hd b)

/-- What is absorbed is the concatenation of the bytes (rules R140, R144). -/
theorem Datapath.absorbed_absorbAll {m : List Byte} {d : Datapath} (hd : d.Absorbed m)
    (bytes : List Byte) : (d.absorbAll bytes).Absorbed (m ++ bytes) := by
  obtain ⟨hplaced, hlen⟩ := (Datapath.absorbed_iff m d).mp hd
  rw [absorbAll_eq]
  refine (Datapath.absorbed_iff _ _).mpr
    ⟨Datapath.placed_withLen (Datapath.placed_padAll hplaced bytes) _, ?_⟩
  rw [withLen, BitVec.toNat_add, BitVec.toNat_ofNat, hlen, List.length_append]
  omega

/-! ### Padding a message (rules R141, R143) -/

/-- The bytes `finalize()` places, for given BLEN and LEN: 0x80, zeros, the length (rule R141). -/
def padding (blen : Nat) (len : DWord) : List Byte :=
  [0x80] ++ List.replicate ((55 + 64 - blen) % 64) 0x00 ++ be64 len

/-- The loop of zero bytes places as many as bring BLEN to 56. -/
theorem Datapath.padZeros_eq (turns : Nat) (d : Datapath)
    (h : (56 + 64 - d.blen.toNat) % 64 ≤ turns) : Datapath.padZeros turns d =
      d.padAll (List.replicate ((56 + 64 - d.blen.toNat) % 64) 0x00) := by
  have hlt := d.blen.isLt
  induction turns generalizing d with
  | zero =>
    rw [Nat.le_zero.mp h]
    rfl
  | succ turns ih =>
    rw [padZeros]
    split
    next h56 => simp [h56]
    next h56 =>
      have hne : d.blen.toNat ≠ 56 := fun h => h56 (BitVec.eq_of_toNat_eq h)
      have hnext := d.padByte_blen 0x00
      have hcount : (56 + 64 - d.blen.toNat) % 64 =
          (56 + 64 - (d.padByte 0x00).blen.toNat) % 64 + 1 := by omega
      rw [ih _ (by omega) (BitVec.isLt _), hcount, List.replicate_succ, padAll_cons]

/-- `finalize()` places its padding byte by byte (rule R141). -/
theorem Datapath.padMessage_eq (d : Datapath) :
    d.padMessage = d.padAll (padding d.blen.toNat d.len) := by
  have hlt := d.blen.isLt
  have hnext := d.padByte_blen 0x80
  have hcount : (56 + 64 - (d.padByte 0x80).blen.toNat) % 64 = (55 + 64 - d.blen.toNat) % 64 := by
    omega
  rw [padMessage, Datapath.padZeros_eq 64 _ (by omega), hcount, padding, padAll_append, padAll_append]
  rfl

theorem padding_length (blen : Nat) (len : DWord) :
    (padding blen len).length = 9 + (55 + 64 - blen) % 64 := by
  simp [padding, be64]
  omega

/-- The padding ends a block. -/
theorem Datapath.padMessage_blen (d : Datapath) : d.padMessage.blen = 0 := by
  have hlt := d.blen.isLt
  apply BitVec.eq_of_toNat_eq
  rw [d.padMessage_eq, padAll_blen, padding_length]
  show _ = 0
  omega

/-- The padding takes one block, or two where the length does not fit the first (rule R141). -/
theorem Datapath.padMessage_compressions (d : Datapath) : d.padMessage.compressions =
    d.compressions + (if d.blen.toNat ≤ 55 then 1 else 2) := by
  have hlt := d.blen.isLt
  rw [d.padMessage_eq, padAll_compressions, padding_length]
  split <;> omega

/-! ### The digest (rules R141, R143) -/

/-- The 32 bytes of a digest are the hash words, each rendered big-endian. -/
theorem toList_digestOf (h : Vector Word 8) : (digestOf h).toList = h.toList.flatMap be32 := by
  have hbytes : (digestOf h).toList = (List.range 32).map (digestByte h) := by
    rw [digestOf, Vector.toList_ofFn, List.ofFn_eq_map]
    rfl
  rw [hbytes, toList_eq_map_getD h 0, List.flatMap_map]
  rfl

/-- Settles O21: the bytes finalize() places, and the blocks they fill. -/
theorem finalizePadsAndRenders : Obligations.FinalizePadsAndRenders := fun d =>
  ⟨d.padMessage, d.padMessage_eq, d.padMessage_blen, d.padMessage_compressions, toList_digestOf _,
    rfl⟩

/-- The padding of a datapath that has absorbed a message is the message's. -/
theorem Datapath.append_padding {m : List Byte} {d : Datapath} (hd : d.Absorbed m) :
    m ++ padding d.blen.toNat d.len = Reference.padded m := by
  have hlen : BitVec.ofNat 64 (8 * m.length) = d.len :=
    BitVec.eq_of_toNat_eq (by rw [BitVec.toNat_ofNat, hd.len])
  rw [Reference.padded, hlen, Reference.zeroCount, padding, hd.blen]
  simp only [List.append_assoc]

/-- The padded message is whole blocks (rule R143). -/
theorem padded_length (m : List Byte) :
    (Reference.padded m).length = 64 * ((m.length + 9 + 63) / 64) := by
  simp [Reference.padded, Reference.zeroCount, be64]
  omega

/-- finalize() returns SHA-256 of exactly the absorbed bytes (rule R143). -/
theorem Datapath.finalDigest_of_absorbed {m : List Byte} {d : Datapath} (hd : d.Absorbed m) :
    d.finalDigest.toList = Reference.sha256 m := by
  have hplaced := Datapath.placed_padAll ((Datapath.absorbed_iff m d).mp hd).1
    (padding d.blen.toNat d.len)
  rw [Datapath.append_padding hd, ← padMessage_eq] at hplaced
  rw [finalDigest, toList_digestOf, Reference.sha256, hplaced.h]

end Sys2Proof.Machine
end

section
/-!
The direct SHA-256 commands, and the MAC's message bytes: what each does in every state, and the digest
they compute (obligations O8, O9, O10, O50, O51).
-/

namespace Sys2Proof

/-! ### Words with a field their command does not use (rule R97) -/

theorem exists_decode_error {c : Word} (h : ¬ (unusedFieldsZero c ∧ fieldRsv c = 0)) :
    ∃ e, decode c = .error e :=
  ⟨illegalKind c, (decode_eq_error_iff c _).mpr ⟨fun hc => h hc.2, rfl⟩⟩

/-- A word whose OP takes no operand is illegal unless it is the OP alone. -/
theorem decode_error_of_ne {c : Word} {op : Byte} (hop : fieldOp c = op) (hN : takesN op = false)
    (hAlg : takesAlg op = false) (hne : c ≠ enc op 0 0) : ∃ e, decode c = .error e := by
  refine exists_decode_error fun ⟨⟨hn, halg⟩, hrsv⟩ => hne ?_
  rw [hop] at hn halg
  simp [eq_iff_fields, hop, hn.resolve_left (by simp [hN]), halg.resolve_left (by simp [hAlg]), hrsv]

/-- A word whose OP takes at most N is illegal when it has a bit above N. -/
theorem decode_error_of_high_bits {c : Word} {op : Byte} (hop : fieldOp c = op)
    (hAlg : takesAlg op = false) (hhigh : c >>> 16 ≠ 0) : ∃ e, decode c = .error e := by
  refine exists_decode_error fun ⟨⟨_, halg⟩, hrsv⟩ => hhigh ?_
  rw [hop] at halg
  have halgZero := halg.resolve_left (by simp [hAlg])
  have hfields := toNat_eq_fields c
  have hopLt := (fieldOp c).isLt
  have hnLt := (fieldN c).isLt
  have hzero : (0 : Byte).toNat = 0 := rfl
  apply BitVec.eq_of_toNat_eq
  rw [halgZero, hrsv] at hfields
  rw [BitVec.toNat_ushiftRight, Nat.shiftRight_eq_div_pow, hfields]
  show _ = 0
  omega

end Sys2Proof

namespace Sys2Proof.Machine

/-! ### A command at a locked and at an unlocked block (rules R96, R262–R264) -/

theorem exec_locked {i : Instr} (hi : i ≠ .softReset) {s : State} (hl : s.err.locked = true) :
    exec i s = .next s := by
  rw [exec_eq_runCommand hi, runCommand_locked _ _ _ _ hl]

theorem exec_fails {i : Instr} (hi : i ≠ .softReset) {s : State} (hl : s.err.locked = false)
    {code : ErrCode} (hc : firstFailing (checksOf i s) = some code) :
    exec i s = .next { s with err := ⟨true, code, encode i⟩ } := by
  rw [exec_eq_runCommand hi, runCommand_fails _ _ _ _ _ hl hc]
  rfl

theorem exec_runs {i : Instr} (hi : i ≠ .softReset) {s : State} (hl : s.err.locked = false)
    (hc : firstFailing (checksOf i s) = none) : exec i s = .next (effectOf i s) := by
  rw [exec_eq_runCommand hi, runCommand_runs _ _ _ _ hl hc]

/-- An illegal word at an unlocked block raises ILLEGAL_CMD (rule R97). -/
theorem serveCommand_illegal {c : Word} {s : State} (hl : s.err.locked = false)
    (h : ∃ e, decode c = .error e) :
    serveCommand c s = .next { s with err := ⟨true, .illegalCmd, c⟩ } := by
  obtain ⟨e, he⟩ := h
  exact serveCommand_of_decode_error he hl

/-! ### SHA.INIT and SHA.UPDATE (rules R145, R146) -/

/-- Settles O8: the one check of SHA.INIT is quiescence. -/
theorem shaInitStartsADigest : Obligations.ShaInitStartsADigest := by
  refine ⟨fun s hl => exec_locked (by decide) hl, fun s hl hidle hsha hmac => ?_,
    fun s hl hhs => ?_,
    fun c s hl hop hne => serveCommand_illegal hl (decode_error_of_ne hop rfl rfl hne)⟩
  · have hquiet : ¬ s.hs.quiescent = true := by
      rw [HS.quiescent_iff]
      tauto
    exact exec_fails (i := .shaInit) (by decide) hl (by simp [checksOf, hquiet])
  · have hquiet : s.hs.quiescent = true := (HS.quiescent_iff s.hs).mpr hhs
    exact exec_runs (by decide) hl (by simp [checksOf, hquiet])

theorem firstBytes_eq_map {n : Byte} (hn : n.toNat ≤ 64) (v : Vector Byte 64) :
    firstBytes n v = (List.range n.toNat).map fun i => v.getD i 0 := by
  rw [firstBytes, toList_eq_map_getD v 0, ← List.map_take, List.take_range, Nat.min_eq_left hn]

theorem firstBytes_length {n : Byte} (hn : n.toNat ≤ 64) (v : Vector Byte 64) :
    (firstBytes n v).length = n.toNat := by
  simp [firstBytes, hn]

/-- SHA.UPDATE N where it is legal (rule R146). -/
theorem exec_shaUpdate {n : Byte} {s : State} (hl : s.err.locked = false) (hn : n.toNat ≤ 64)
    (hs : s.hs = .sha) : exec (.shaUpdate n) s =
      .next { s with dp := s.dp.absorbAll (firstBytes n s.data) } :=
  exec_runs (by simp) hl (by simp [checksOf, hs, hn])

/-- Settles O9: the checks of SHA.UPDATE in their order, and what absorbing does to BLEN. -/
theorem shaUpdateAbsorbsNBytes : Obligations.ShaUpdateAbsorbsNBytes := by
  refine ⟨fun n s hl => exec_locked (by simp) hl, fun n s hl hn => ?_, fun n s hl hn hs => ?_,
    fun n s hl hn hs => ?_,
    fun c s hl hop hhigh => serveCommand_illegal hl (decode_error_of_high_bits hop rfl hhigh)⟩
  · exact exec_fails (i := .shaUpdate n) (by simp) hl (by simp [checksOf, hn])
  · have hcount : ¬ 64 < n.toNat := by omega
    exact exec_fails (i := .shaUpdate n) (by simp) hl (by simp [checksOf, hcount, hs])
  · refine ⟨_, exec_shaUpdate hl hn hs, by rw [firstBytes_eq_map hn], ?_, ?_⟩
    · rw [Datapath.absorbAll_blen, firstBytes_length hn]
    · rw [Datapath.absorbAll_compressions, firstBytes_length hn]

/-! ### SHA.FINAL (rules R143, R147) -/

/-- SHA.FINAL where it is legal (rule R147). -/
theorem exec_shaFinal {s : State} (hl : s.err.locked = false) (hs : s.hs = .sha) :
    exec .shaFinal s = .next { s with
      dout := s.dp.finalDigest, dp := s.dp.finalized, hs := .shaDone } := by
  rw [exec_runs (by decide) hl (by simp [checksOf, hs])]
  simp only [effectOf, State.withDout, State.withDp, State.withHs]

/-- finalize() makes the compressions of the padding (rule R141). -/
theorem Datapath.finalized_compressions (d : Datapath) : d.finalized.compressions =
    d.compressions + (if d.blen.toNat ≤ 55 then 1 else 2) := by
  rw [finalized, zeroise_compressions, padMessage_compressions]

theorem sha256_nil : Reference.sha256 [] =
    [0xe3, 0xb0, 0xc4, 0x42, 0x98, 0xfc, 0x1c, 0x14, 0x9a, 0xfb, 0xf4, 0xc8, 0x99, 0x6f, 0xb9,
     0x24, 0x27, 0xae, 0x41, 0xe4, 0x64, 0x9b, 0x93, 0x4c, 0xa4, 0x95, 0x99, 0x1b, 0x78, 0x52,
     0xb8, 0x55] := by
  decide +kernel

/-- Settles O10: finalize() zeroises the padded datapath, and the digest of nothing is SHA-256's. -/
theorem shaFinalPublishesTheDigest : Obligations.ShaFinalPublishesTheDigest := by
  refine ⟨fun s hl => exec_locked (by decide) hl, fun s hl hs => ?_, fun s hl hs => ?_,
    fun c s hl hop hne => serveCommand_illegal hl (decode_error_of_ne hop rfl rfl hne)⟩
  · exact exec_fails (i := .shaFinal) (by decide) hl (by simp [checksOf, hs])
  · exact ⟨s.dp.finalized, exec_shaFinal hl hs, rfl, rfl, rfl, rfl, rfl,
      s.dp.finalized_compressions,
      fun hnothing => (Datapath.finalDigest_of_absorbed hnothing).trans sha256_nil⟩

/-- Settles O51: finalize() returns SHA-256 of what was absorbed. -/
theorem shaFinalPublishesSha256 : Obligations.ShaFinalPublishesSha256 :=
  ⟨fun _ _ hl hs habsorbed => ⟨_, exec_shaFinal hl hs, Datapath.finalDigest_of_absorbed habsorbed, rfl,
    ⟨rfl, rfl, rfl⟩, rfl, rfl, rfl, rfl, rfl⟩, padded_length⟩

/-! ### Only the concatenation of the bytes matters (rule R144) -/

/-- HMAC.MSG N where it is legal (rule R185). -/
theorem exec_hmacMsg {n : Byte} {s : State} (hl : s.err.locked = false) (hn : n.toNat ≤ 64)
    (hs : s.hs = .hmsg) : exec (.hmacMsg n) s =
      .next { s with dp := s.dp.absorbAll (firstBytes n s.data) } :=
  exec_runs (by simp) hl (by simp [checksOf, hs, hn])

/-- Settles O50: absorbing appends, and no byte changes nothing. -/
theorem absorbingDependsOnlyOnTheBytes : Obligations.AbsorbingDependsOnlyOnTheBytes := by
  refine ⟨fun n m s hl hn hs habsorbed => ?_, fun n k m s hl hn hmessage => ?_, fun s hl hs => ?_⟩
  · exact ⟨_, exec_shaUpdate hl hn hs, Datapath.absorbed_absorbAll habsorbed _⟩
  · obtain ⟨hs, hkey, habsorbed⟩ := hmessage
    refine ⟨_, exec_hmacMsg hl hn hs, hs, hkey, ?_⟩
    rw [← List.append_assoc]
    exact Datapath.absorbed_absorbAll habsorbed _
  · exact exec_shaUpdate hl (by decide) hs

end Sys2Proof.Machine
end

section
/-!
Receiving the key of an HMAC context: KEY fills up to 64 bytes, then the key is hashed (obligation O22).
-/

namespace Sys2Proof.Machine

/-! ### Key bytes, held and hashed (rules R182, R183) -/

/-- Settles O22: the three branches of key_byte; the 65th byte is absorbed after the 64 held ones. -/
theorem keyByteHoldsThenHashes : Obligations.KeyByteHoldsThenHashes := by
  intro b s
  refine ⟨keyByte_held b, fun hkey hfull => ?_, keyByte_hashed b⟩
  rw [keyByte_overflows b hkey (Nat.not_lt.mpr hfull), Datapath.absorbAll_append]
  rfl

/-- KEY holds the KLEN bytes `held`, and `rest` after them. -/
structure MacRegs.Holds (held rest : List Byte) (m : MacRegs) : Prop where
  klen : m.klen.toNat = held.length
  key : m.key.toList = held ++ rest

theorem MacRegs.holds_take_drop {m : MacRegs} (h : m.klen.toNat ≤ 64) :
    m.Holds (m.key.toList.take m.klen.toNat) (m.key.toList.drop m.klen.toNat) :=
  ⟨by simp [h], (List.take_append_drop _ _).symm⟩

/-- KEY is 64 bytes. -/
theorem MacRegs.length_of_holds {held rest : List Byte} {m : MacRegs} (h : m.Holds held rest) :
    held.length + rest.length = 64 := by
  rw [← List.length_append, ← h.key, Vector.length_toList]

/-- A byte placed at KEY[KLEN] is held too. -/
theorem MacRegs.holds_append {held rest : List Byte} {old : Byte} {m : MacRegs}
    (h : m.Holds held (old :: rest)) (b : Byte) :
    { m with key := m.key.setIfInBounds m.klen.toNat b, klen := m.klen + 1 : MacRegs }.Holds
      (held ++ [b]) rest := by
  have hlength := MacRegs.length_of_holds h
  rw [List.length_cons] at hlength
  have hone : (1 : BitVec 7).toNat = 1 := rfl
  refine ⟨?_, ?_⟩
  · rw [BitVec.toNat_add, hone, h.klen, List.length_append, List.length_singleton]
    omega
  · simp [Vector.toList_setIfInBounds, h.key, h.klen]

/-- Key bytes that fit are held after those already there. -/
theorem keyBytes_held {held rest bytes : List Byte} {s : State} (hkey : s.hs = .hkey)
    (hmac : s.mac.Holds held rest) (hfit : bytes.length ≤ rest.length) :
    ∃ m : MacRegs, keyBytes bytes s = s.withMac m ∧
      m.Holds (held ++ bytes) (rest.drop bytes.length) ∧ m.idig = s.mac.idig := by
  induction bytes generalizing held rest s with
  | nil => exact ⟨s.mac, rfl, by simpa using hmac, rfl⟩
  | cons b bytes ih =>
    cases rest with
    | nil => simp at hfit
    | cons old rest =>
      have hlength := MacRegs.length_of_holds hmac
      have hroom : s.mac.klen.toNat < 64 := by
        rw [List.length_cons] at hlength
        rw [hmac.klen]
        omega
      obtain ⟨m, hm, hholds, hidig⟩ := ih (s := keyByte b s)
        (by rw [keyByte_held b hkey hroom]; exact hkey)
        (by rw [keyByte_held b hkey hroom]; exact MacRegs.holds_append hmac b)
        (by simpa using hfit)
      rw [keyByte_held b hkey hroom] at hm hidig
      refine ⟨m, ?_, by simpa using hholds, hidig⟩
      rw [keyBytes_cons, keyByte_held b hkey hroom, hm]
      rfl

/-- Once the key is being hashed, key bytes are absorbed. -/
theorem keyBytes_hashed (bytes : List Byte) {s : State} (hkey : s.hs ≠ .hkey) :
    keyBytes bytes s = s.withDp (s.dp.absorbAll bytes) := by
  induction bytes generalizing s with
  | nil => rfl
  | cons b bytes ih =>
    rw [keyBytes_cons, keyByte_hashed b hkey, ih (s := s.withDp (s.dp.absorb b)) hkey]
    rfl

/-- Key bytes that do not fit: the whole key, held bytes first, is absorbed by a fresh hash. -/
theorem keyBytes_overflow {held rest bytes : List Byte} {s : State} (hkey : s.hs = .hkey)
    (hmac : s.mac.Holds held rest) (hover : rest.length < bytes.length) :
    keyBytes bytes s = { s with
      dp := s.dp.coreInit.absorbAll (held ++ bytes)
      mac := ⟨Vector.replicate 64 0, 65, s.mac.idig⟩
      hs := .hkeyh } := by
  obtain ⟨b, later, hsplit⟩ : ∃ b later, bytes = bytes.take rest.length ++ b :: later :=
    ⟨_, _, by rw [← List.drop_eq_getElem_cons hover, List.take_append_drop]⟩
  obtain ⟨m, hfilled, hholds, hidig⟩ := keyBytes_held (bytes := bytes.take rest.length) hkey hmac
    (by simp)
  have hfull : ¬ m.klen.toNat < 64 := by
    have hlength := MacRegs.length_of_holds hmac
    rw [hholds.klen]
    simp
    omega
  have hheld : m.key.toList = held ++ bytes.take rest.length := by
    simpa [hover.le] using hholds.key
  have hbytes : held ++ bytes = m.key.toList ++ b :: later := by
    rw [hheld, List.append_assoc, ← hsplit]
  rw [hbytes, hsplit, keyBytes_append, hfilled, keyBytes_cons,
    keyByte_overflows b (s := s.withMac m) hkey hfull, keyBytes_hashed later (by simp),
    Datapath.absorbAll_append, Datapath.absorbAll_cons, ← hidig]
  rfl

end Sys2Proof.Machine
end

section
/-!
The HMAC commands: what each does in every state (obligations O11 to O15).
-/

namespace Sys2Proof.Machine

/-! ### The states a command is not legal in (rule R188) -/

theorem HS.quiescent_eq_false_iff (h : HS) :
    h.quiescent = false ↔ h ≠ .idle ∧ h ≠ .shaDone ∧ h ≠ .hmacDone := by
  rw [← Bool.not_eq_true, HS.quiescent_iff]
  tauto

theorem HS.keying_eq_false_iff (h : HS) : h.keying = false ↔ h ≠ .hkey ∧ h ≠ .hkeyh := by
  rw [← Bool.not_eq_true, HS.keying_iff]
  tauto

/-! ### HMAC.BEGIN (rule R181) -/

/-- A word of HMAC.BEGIN has nothing in RSV and N (rule R97). -/
theorem decode_error_of_hmacBegin {c : Word} (hop : fieldOp c = 0x10)
    (h : fieldRsv c ≠ 0 ∨ fieldN c ≠ 0) : ∃ e, decode c = .error e := by
  refine exists_decode_error fun ⟨⟨hn, _⟩, hrsv⟩ => ?_
  rw [hop] at hn
  exact h.elim (absurd hrsv) (absurd (hn.resolve_left (by decide)))

/-- Settles O11: the algorithm is checked first, then quiescence. -/
theorem hmacBeginCreatesAContext : Obligations.HmacBeginCreatesAContext := by
  refine ⟨fun alg s hl => exec_locked (by simp) hl, fun alg s hl halg => ?_,
    fun s hl hidle hsha hmac => ?_, fun s hl hhs => ?_,
    fun c s hl hop hfields => serveCommand_illegal hl (decode_error_of_hmacBegin hop hfields)⟩
  · exact exec_fails (i := .hmacBegin alg) (by simp) hl (by simp_all [checksOf, legalAlg])
  · have hbusy := (HS.quiescent_eq_false_iff s.hs).mpr ⟨hidle, hsha, hmac⟩
    exact exec_fails (i := .hmacBegin 0x01) (by simp) hl (by simp [checksOf, legalAlg, hbusy])
  · have hquiet : s.hs.quiescent = true := (HS.quiescent_iff s.hs).mpr hhs
    exact exec_runs (by simp) hl (by simp [checksOf, legalAlg, hquiet])

/-! ### A hash of given bytes, from its start (rules R138, R140) -/

theorem Datapath.coreInit_absorbAll_blen (d : Datapath) (bytes : List Byte) :
    (d.coreInit.absorbAll bytes).blen.toNat = bytes.length % 64 := by
  simp [absorbAll_blen]

theorem Datapath.coreInit_absorbAll_len (d : Datapath) (bytes : List Byte) :
    (d.coreInit.absorbAll bytes).len = BitVec.ofNat 64 (8 * bytes.length) := by
  rw [absorbAll_eq]
  exact BitVec.zero_add _

theorem Datapath.coreInit_absorbAll_compressions (d : Datapath) (bytes : List Byte) :
    (d.coreInit.absorbAll bytes).compressions = d.compressions + bytes.length / 64 := by
  simp [absorbAll_compressions]

theorem padKey_length (pad : Byte) (key : Vector Byte 64) : (padKey pad key).length = 64 := by
  simp [padKey]

/-- A padded key is one block of the inner or outer hash (rules R184, R186). -/
theorem Datapath.coreInit_absorbAll_padKey (d : Datapath) (pad : Byte) (key : Vector Byte 64) :
    (d.coreInit.absorbAll (padKey pad key)).blen = 0 ∧
      (d.coreInit.absorbAll (padKey pad key)).len = 512 ∧
      (d.coreInit.absorbAll (padKey pad key)).compressions = d.compressions + 1 := by
  refine ⟨BitVec.eq_of_toNat_eq ?_, ?_, ?_⟩
  · rw [coreInit_absorbAll_blen, padKey_length]
    rfl
  · rw [coreInit_absorbAll_len, padKey_length]
    rfl
  · rw [coreInit_absorbAll_compressions, padKey_length]

/-! ### HMAC.KEY (rule R183) -/

/-- Delivering key bytes writes the datapath, the HMAC registers and HS only. -/
theorem keyBytes_eq_update (bytes : List Byte) (s : State) : keyBytes bytes s = { s with
    dp := (keyBytes bytes s).dp, mac := (keyBytes bytes s).mac, hs := (keyBytes bytes s).hs } := by
  obtain ⟨hcmp, herr, hdout, hdata, hdatb, hport, hresponses, -⟩ := keyBytes_frame bytes s
  rw [← hcmp, ← herr, ← hdout, ← hdata, ← hdatb, ← hport, ← hresponses]

/-- HMAC.KEY N where it is legal. -/
theorem exec_hmacKey {n : Byte} {s : State} (hl : s.err.locked = false) (hn : n.toNat ≤ 64)
    (hs : s.hs = .hkey ∨ s.hs = .hkeyh) :
    exec (.hmacKey n) s = .next (keyBytes (firstBytes n s.data) s) := by
  have hkeying : s.hs.keying = true := (HS.keying_iff s.hs).mpr hs
  exact exec_runs (by simp) hl (by simp [checksOf, hn, hkeying])

/-- What `bytes` delivered in a state that meets the invariants leave in KLEN, HS, BLEN and the count of
compressions. -/
structure KeyDelivered (bytes : List Byte) (s t : State) : Prop where
  klen : t.mac.klen.toNat = min (s.mac.klen.toNat + bytes.length) 65
  hs : t.hs = if s.hs = .hkeyh ∨ 64 < s.mac.klen.toNat + bytes.length then .hkeyh else .hkey
  blen : t.hs = .hkeyh → t.dp.blen.toNat =
    if s.hs = .hkeyh then (s.dp.blen.toNat + bytes.length) % 64
    else (s.mac.klen.toNat + bytes.length) % 64
  compressions : t.dp.compressions = s.dp.compressions +
    if s.hs = .hkeyh then (s.dp.blen.toNat + bytes.length) / 64
    else if s.mac.klen.toNat + bytes.length ≤ 64 then 0
    else 1 + (s.mac.klen.toNat + bytes.length - 64) / 64

/-- The three ways a key goes on: it still fits in KEY, it passes 64 bytes, or it is being hashed. -/
theorem keyDelivered_keyBytes (bytes : List Byte) {s : State} (hinv : s.Inv)
    (hs : s.hs = .hkey ∨ s.hs = .hkeyh) : KeyDelivered bytes s (keyBytes bytes s) := by
  obtain hkey | hkeyh := hs
  · obtain ⟨hklen, -⟩ := hinv.key_held hkey
    have hholds := MacRegs.holds_take_drop hklen
    have hheld : (s.mac.key.toList.take s.mac.klen.toNat).length = s.mac.klen.toNat := by simp [hklen]
    have hrest : (s.mac.key.toList.drop s.mac.klen.toNat).length = 64 - s.mac.klen.toNat := by simp
    by_cases hfit : s.mac.klen.toNat + bytes.length ≤ 64
    · obtain ⟨m, hm, hmholds, -⟩ := keyBytes_held (bytes := bytes) hkey hholds (by omega)
      rw [hm]
      have hmklen := hmholds.klen
      rw [List.length_append, hheld] at hmklen
      constructor <;> simp [hkey, hfit, hmklen]
      omega
    · rw [keyBytes_overflow (bytes := bytes) hkey hholds (by omega)]
      constructor <;>
        simp [hkey, hfit, hheld, Datapath.coreInit_absorbAll_blen,
          Datapath.coreInit_absorbAll_compressions]
      all_goals omega
  · have hklen : s.mac.klen = 65 := (hinv.long_key (by simp [hkeyh])).mp hkeyh
    rw [keyBytes_hashed bytes (by simp [hkeyh])]
    constructor <;>
      simp [hkeyh, hklen, Datapath.absorbAll_blen, Datapath.absorbAll_compressions]

/-- Settles O12: the checks of HMAC.KEY in their order, and what the delivered bytes leave. -/
theorem hmacKeyDeliversNBytes : Obligations.HmacKeyDeliversNBytes := by
  refine ⟨fun n s hl => exec_locked (by simp) hl, fun n s hl hn => ?_, fun n s hl hn hkey hkeyh => ?_,
    fun n s hl hn hs => ?_,
    fun c s hl hop hhigh => serveCommand_illegal hl (decode_error_of_high_bits hop rfl hhigh)⟩
  · exact exec_fails (i := .hmacKey n) (by simp) hl (by simp [checksOf, hn])
  · have hcount : ¬ 64 < n.toNat := by omega
    have hkeying := (HS.keying_eq_false_iff s.hs).mpr ⟨hkey, hkeyh⟩
    exact exec_fails (i := .hmacKey n) (by simp) hl (by simp [checksOf, hcount, hkeying])
  · obtain ⟨-, -, -, -, -, -, -, hidig⟩ := keyBytes_frame (firstBytes n s.data) s
    have hupdate := keyBytes_eq_update (firstBytes n s.data) s
    refine ⟨_, _, _, (exec_hmacKey hl hn hs).trans (congrArg _ hupdate), ?_, hidig, fun hinv => ?_⟩
    · rw [← hupdate, firstBytes_eq_map hn]
      rfl
    · obtain ⟨hklen, hhs, hblen, hcompressions⟩ := keyDelivered_keyBytes (firstBytes n s.data) hinv hs
      rw [firstBytes_length hn] at hklen hhs hblen hcompressions
      exact ⟨hklen, hhs, hblen, hcompressions⟩

/-! ### HMAC.KEYEND (rule R184) -/

theorem normalizeKey_of_hkey {s : State} (hs : s.hs = .hkey) : normalizeKey s = s := by
  simp [normalizeKey, hs]

theorem normalizeKey_of_hkeyh {s : State} (hs : s.hs = .hkeyh) :
    normalizeKey s = finishLongKey s := by
  simp [normalizeKey, hs]

theorem toList_extendDigest (d : Vector Byte 32) :
    (extendDigest d).toList = d.toList ++ List.replicate 32 0 := by
  rw [extendDigest, Vector.toList_append, Vector.toList_replicate]

/-- HMAC.KEYEND where it is legal. -/
theorem exec_hmacKeyend {s : State} (hl : s.err.locked = false)
    (hs : s.hs = .hkey ∨ s.hs = .hkeyh) :
    exec .hmacKeyend s = .next (startInner (normalizeKey s)) := by
  have hkeying : s.hs.keying = true := (HS.keying_iff s.hs).mpr hs
  exact exec_runs (by simp) hl (by simp [checksOf, hkeying])

/-- HMAC.KEYEND after a key of at most 64 bytes: KEY stays as it is. -/
theorem exec_hmacKeyend_of_hkey {s : State} (hl : s.err.locked = false) (hs : s.hs = .hkey) :
    exec .hmacKeyend s = .next { s with
      dp := s.dp.coreInit.absorbAll (padKey ipad s.mac.key), hs := .hmsg } := by
  rw [exec_hmacKeyend hl (.inl hs), normalizeKey_of_hkey hs]
  rfl

/-- HMAC.KEYEND after a longer key: KEY becomes its digest, extended. -/
theorem exec_hmacKeyend_of_hkeyh {s : State} (hl : s.err.locked = false) (hs : s.hs = .hkeyh) :
    exec .hmacKeyend s = .next { s with
      dp := s.dp.finalized.coreInit.absorbAll (padKey ipad (extendDigest s.dp.finalDigest))
      mac := { s.mac with key := extendDigest s.dp.finalDigest }
      hs := .hmsg } := by
  rw [exec_hmacKeyend hl (.inr hs), normalizeKey_of_hkeyh hs]
  simp only [startInner, finishLongKey, State.withMac, State.withDp, State.withHs]

/-- Settles O13: the pad fills one block, after the key hash's last blocks where there is one. -/
theorem hmacKeyendStartsTheInnerHash : Obligations.HmacKeyendStartsTheInnerHash := by
  refine ⟨fun s hl => exec_locked (by decide) hl, fun s hl hkey hkeyh => ?_, fun s hl hs => ?_,
    fun s hl hs => ?_,
    fun c s hl hop hne => serveCommand_illegal hl (decode_error_of_ne hop rfl rfl hne)⟩
  · have hkeying := (HS.keying_eq_false_iff s.hs).mpr ⟨hkey, hkeyh⟩
    exact exec_fails (i := .hmacKeyend) (by decide) hl (by simp [checksOf, hkeying])
  · exact ⟨_, exec_hmacKeyend_of_hkey hl hs, rfl, Datapath.coreInit_absorbAll_padKey s.dp ipad _⟩
  · obtain ⟨hblen, hlen, hcompressions⟩ := Datapath.coreInit_absorbAll_padKey s.dp.finalized ipad
      (extendDigest s.dp.finalDigest)
    rw [Datapath.finalized_compressions] at hcompressions
    exact ⟨_, _, exec_hmacKeyend_of_hkeyh hl hs, toList_extendDigest _, rfl, hblen, hlen,
      hcompressions⟩

/-! ### HMAC.MSG (rule R185) -/

/-- Settles O14: the checks of HMAC.MSG in their order, and what absorbing does to BLEN. -/
theorem hmacMsgAbsorbsNBytes : Obligations.HmacMsgAbsorbsNBytes := by
  refine ⟨fun n s hl => exec_locked (by simp) hl, fun n s hl hn => ?_, fun n s hl hn hs => ?_,
    fun n s hl hn hs => ?_,
    fun c s hl hop hhigh => serveCommand_illegal hl (decode_error_of_high_bits hop rfl hhigh)⟩
  · exact exec_fails (i := .hmacMsg n) (by simp) hl (by simp [checksOf, hn])
  · have hcount : ¬ 64 < n.toNat := by omega
    exact exec_fails (i := .hmacMsg n) (by simp) hl (by simp [checksOf, hcount, hs])
  · refine ⟨_, exec_hmacMsg hl hn hs, by rw [firstBytes_eq_map hn], ?_, ?_⟩
    · rw [Datapath.absorbAll_blen, firstBytes_length hn]
    · rw [Datapath.absorbAll_compressions, firstBytes_length hn]

/-! ### HMAC.FINAL (rule R186) -/

/-- The outer hash of HMAC.FINAL before its finalize: the outer pad and the inner digest absorbed. -/
def State.outerHash (s : State) : Datapath :=
  s.dp.finalized.coreInit.absorbAll (padKey opad s.mac.key ++ s.dp.finalDigest.toList)

/-- HMAC.FINAL where it is legal. -/
theorem exec_hmacFinal {s : State} (hl : s.err.locked = false) (hs : s.hs = .hmsg) :
    exec .hmacFinal s = .next { s with
      dout := s.outerHash.finalDigest
      dp := s.outerHash.finalized
      mac := ⟨Vector.replicate 64 0, 0, Vector.replicate 32 0⟩
      hs := .hmacDone } := by
  rw [exec_runs (by decide) hl (by simp [checksOf, hs]), State.outerHash, Datapath.absorbAll_append]
  simp only [effectOf, publishMac, absorbOuter, finishInner, State.withMac, State.withDp,
    State.withHs, State.withDout]

/-- The outer hash absorbs 96 bytes: one block, and 32 bytes of the next. -/
theorem State.outerHash_registers (s : State) : s.outerHash.len = 768 ∧
    s.outerHash.blen.toNat = 32 ∧
    s.outerHash.compressions = s.dp.finalized.compressions + 1 := by
  have hlength : (padKey opad s.mac.key ++ s.dp.finalDigest.toList).length = 96 := by
    rw [List.length_append, padKey_length, Vector.length_toList]
  refine ⟨?_, ?_, ?_⟩
  · rw [outerHash, Datapath.coreInit_absorbAll_len, hlength]
    rfl
  · rw [outerHash, Datapath.coreInit_absorbAll_blen, hlength]
  · rw [outerHash, Datapath.coreInit_absorbAll_compressions, hlength]

/-- Settles O15: the inner hash's finalize, then the outer hash of 96 bytes and its finalize. -/
theorem hmacFinalPublishesTheMac : Obligations.HmacFinalPublishesTheMac := by
  refine ⟨fun s hl => exec_locked (by decide) hl, fun s hl hs => ?_, fun s hl hs => ?_,
    fun c s hl hop hne => serveCommand_illegal hl (decode_error_of_ne hop rfl rfl hne)⟩
  · exact exec_fails (i := .hmacFinal) (by decide) hl (by simp [checksOf, hs])
  · obtain ⟨hlen, hblen, hcompressions⟩ := s.outerHash_registers
    refine ⟨s.outerHash, exec_hmacFinal hl hs, rfl, hlen, rfl, ?_⟩
    rw [Datapath.finalized_compressions, hcompressions, hblen, Datapath.finalized_compressions]
    split <;> rfl

end Sys2Proof.Machine
end

section
/-!
The MAC: the key received is normalized, and HMAC.FINAL publishes HMAC-SHA256 (obligations O52, O53).
-/

namespace Sys2Proof.Machine

/-! ### The key received (rules R180, R182, R183) -/

/-- core_init leaves a datapath that has absorbed nothing (rule R138). -/
theorem Datapath.absorbed_coreInit (d : Datapath) : d.coreInit.Absorbed [] :=
  ⟨rfl, rfl, fun j hj => absurd hj (Nat.not_lt_zero j), rfl⟩

/-- What is absorbed after core_init. -/
theorem Datapath.absorbed_of_coreInit (d : Datapath) (bytes : List Byte) :
    (d.coreInit.absorbAll bytes).Absorbed bytes :=
  Datapath.absorbed_absorbAll d.absorbed_coreInit bytes

/-- Delivering bytes appends them to the key received. -/
theorem State.keyReceived_keyBytes {k : List Byte} {s : State} (h : s.KeyReceived k)
    (bytes : List Byte) : (keyBytes bytes s).KeyReceived (k ++ bytes) := by
  obtain ⟨hkey, hshort, hklen, hheld⟩ | ⟨hkeyh, hlong, hklen, habsorbed⟩ := h
  · have hholds : s.mac.Holds k (List.replicate (64 - k.length) 0) := ⟨hklen, hheld⟩
    by_cases hfit : (k ++ bytes).length ≤ 64
    · rw [List.length_append] at hfit
      obtain ⟨m, hm, hmholds, -⟩ := keyBytes_held (bytes := bytes) hkey hholds
        (by rw [List.length_replicate]; omega)
      rw [hm]
      refine .inl ⟨hkey, by rwa [List.length_append], hmholds.klen, ?_⟩
      rw [State.withMac_mac, hmholds.key, List.drop_replicate, List.length_append, Nat.sub_sub]
    · have hover : 64 < (k ++ bytes).length := by omega
      rw [List.length_append] at hfit
      rw [keyBytes_overflow (bytes := bytes) hkey hholds (by rw [List.length_replicate]; omega)]
      exact .inr ⟨rfl, hover, rfl, s.dp.absorbed_of_coreInit _⟩
  · rw [keyBytes_hashed bytes (by simp [hkeyh])]
    refine .inr ⟨hkeyh, ?_, hklen, Datapath.absorbed_absorbAll habsorbed bytes⟩
    rw [List.length_append]
    omega

theorem State.keying_of_keyReceived {k : List Byte} {s : State} (h : s.KeyReceived k) :
    s.hs = .hkey ∨ s.hs = .hkeyh := h.imp And.left And.left

/-! ### The key normalized (rules R180, R184) -/

theorem normalizedKey_of_le {k : List Byte} (h : k.length ≤ 64) :
    Reference.normalizedKey k = k ++ List.replicate (64 - k.length) 0 := by
  simp [Reference.normalizedKey, Nat.not_lt.mpr h]

/-- A longer key's digest, padded with 32 zero bytes. -/
theorem toList_extendDigest_finalDigest {k : List Byte} {d : Datapath} (h : 64 < k.length)
    (habsorbed : d.Absorbed k) :
    (extendDigest d.finalDigest).toList = Reference.normalizedKey k := by
  have hdigest := Datapath.finalDigest_of_absorbed habsorbed
  have hlength : (Reference.sha256 k).length = 32 := by rw [← hdigest, Vector.length_toList]
  rw [toList_extendDigest, hdigest]
  simp [Reference.normalizedKey, h, hlength]

/-- The key as it is held is normalized, or becomes so. -/
theorem State.toList_key_normalizeKey {k : List Byte} {s : State} (h : s.KeyReceived k) :
    (normalizeKey s).mac.key.toList = Reference.normalizedKey k := by
  obtain ⟨hkey, hshort, -, hheld⟩ | ⟨hkeyh, hlong, -, habsorbed⟩ := h
  · rw [normalizeKey_of_hkey hkey, hheld, normalizedKey_of_le hshort]
  · rw [normalizeKey_of_hkeyh hkeyh]
    exact toList_extendDigest_finalDigest hlong habsorbed

/-- The inner hash has absorbed the inner pad and no message byte. -/
theorem State.messageAbsorbed_startInner {k : List Byte} {s : State}
    (h : s.mac.key.toList = Reference.normalizedKey k) : (startInner s).MessageAbsorbed k [] := by
  refine ⟨rfl, h, ?_⟩
  rw [startInner_dp, padKey, h, List.append_nil]
  exact s.dp.absorbed_of_coreInit _

/-- Settles O52: the key is held or hashed as it is received, and the pad is absorbed by a fresh
hash. -/
theorem keyIsNormalized : Obligations.KeyIsNormalized := by
  refine ⟨fun n k s hl hn hreceived => ?_, fun k s hl hreceived => ?_⟩
  · obtain ⟨hcmp, herr, -, hdata, hdatb, -⟩ := keyBytes_frame (firstBytes n s.data) s
    exact ⟨_, exec_hmacKey hl hn (State.keying_of_keyReceived hreceived),
      State.keyReceived_keyBytes hreceived _, herr, hcmp, hdata, hdatb⟩
  · obtain ⟨hcmp, herr, hdata, hdatb, -⟩ :=
      (State.sameButHashUnit_iff _ _).mp (sameButHashUnit_startInner_normalizeKey s)
    have hklen : (startInner (normalizeKey s)).mac.klen = s.mac.klen := by
      obtain ⟨d, key, hnormal⟩ := normalizeKey_frame s
      rw [hnormal]
      rfl
    exact ⟨_, exec_hmacKeyend hl (State.keying_of_keyReceived hreceived),
      State.messageAbsorbed_startInner (State.toList_key_normalizeKey hreceived), hklen, herr, hcmp,
      hdata, hdatb⟩

/-! ### The MAC (rules R180, R187) -/

/-- The outer hash of HMAC.FINAL returns the HMAC of the key and the message received. -/
theorem State.finalDigest_outerHash {k m : List Byte} {s : State} (h : s.MessageAbsorbed k m) :
    s.outerHash.finalDigest.toList = Reference.hmac k m := by
  obtain ⟨-, hkey, hinner⟩ := h
  have houter : s.outerHash.Absorbed (padKey opad s.mac.key ++ s.dp.finalDigest.toList) :=
    s.dp.finalized.absorbed_of_coreInit _
  rw [Datapath.finalDigest_of_absorbed houter, Datapath.finalDigest_of_absorbed hinner, padKey, hkey]
  rfl

/-- Settles O53: the outer hash's digest is the HMAC, and finalize() zeroises. -/
theorem hmacFinalPublishesHmac : Obligations.HmacFinalPublishesHmac := fun _ _ _ hl hmessage =>
  ⟨_, exec_hmacFinal hl hmessage.1, State.finalDigest_outerHash hmessage, rfl, ⟨rfl, rfl⟩,
    ⟨rfl, rfl, rfl⟩, rfl, rfl, rfl, rfl⟩

end Sys2Proof.Machine
end

section
/-!
HS after every command (obligation O46).
-/

namespace Sys2Proof.Machine

/-! ### The checks are those of the table (rules R188, R262) -/

theorem CS.eq_active_iff (c : CS) : ¬ c = .idle ∧ ¬ c = .done ↔ c = .active := by
  cases c <;> simp

theorem CS.eq_idle_iff (c : CS) : ¬ c = .active ∧ ¬ c = .done ↔ c = .idle := by
  cases c <;> simp

/-- The checks of a command report the first error in the order of rule R262: each makes the tests of
that order which apply to it, and it is legal in the states of the table. -/
theorem firstError_eq_firstFailing (i : Instr) (s : State) :
    Reference.firstError i s = firstFailing (checksOf i s) := by
  cases i <;>
    simp [Reference.firstError, checksOf, Reference.countOf, Reference.wrongAlg, Reference.legalIn,
      Reference.feedsTooMany, Reference.endsEarly, legalAlg, HS.quiescent_eq_false_iff,
      HS.keying_eq_false_iff, CS.eq_active_iff, CS.eq_idle_iff]

/-! ### HS after a command (rule R188) -/

/-- HS after a command whose checks pass is the table's. -/
theorem effectOf_hs {i : Instr} {s : State} (hinv : s.Inv)
    (hpass : firstFailing (checksOf i s) = none) : (effectOf i s).hs = Reference.nextHs i s := by
  cases i with
  | hmacKey n =>
    have hlegal := legal_of_firstFailing hpass (legal := s.hs.keying) (by simp [checksOf])
    have hcount := (firstFailing_eq_none_iff _).mp hpass (badCount n) (by simp [checksOf])
    have hn : n.toNat ≤ 64 := by simpa using hcount
    have hkeying := (HS.keying_iff s.hs).mp hlegal
    rw [effectOf, (keyDelivered_keyBytes _ hinv hkeying).hs, firstBytes_length hn, Reference.nextHs]
    obtain hs | hs := hkeying <;> simp [hs]
  | _ => rfl

/-- A command whose checks pass at an unlocked block has its effect. -/
theorem exec_passes {i : Instr} {s : State} (hl : s.err.locked = false)
    (hpass : firstFailing (checksOf i s) = none) : exec i s = .next (effectOf i s) := by
  by_cases hreset : i = .softReset
  · rw [hreset, exec_softReset]
  · exact exec_runs hreset hl hpass

/-- Settles O46: a failing check leaves HS alone, and every other command's effect sets it as
tabulated. -/
theorem hashStateFollowsTheTable : Obligations.HashStateFollowsTheTable := by
  intro i s t hinv hl hexec
  rw [firstError_eq_firstFailing]
  cases hchecks : firstFailing (checksOf i s) with
  | some code =>
    have hreset : i ≠ .softReset := by
      rintro rfl
      cases hchecks
    rw [exec_fails hreset hl hchecks] at hexec
    cases hexec
    rfl
  | none =>
    rw [exec_passes hl hchecks] at hexec
    cases hexec
    exact effectOf_hs hinv hchecks

end Sys2Proof.Machine
end

section
/-!
The host's texts: UTF-8 and the digest encodings, the shape of a signed value, and the part of a text
before its last '.' (obligation O60).
-/

namespace Sys2Proof.Machine.Boundary

/-! ### UTF-8 (rule R210) -/

theorem ofNat_eq_toBitVec {m n : Nat} (h : m % 256 = n % 256) :
    BitVec.ofNat 8 m = (UInt8.ofNat n).toBitVec := by
  apply BitVec.eq_of_toNat_eq
  simpa using h

/-- The UTF-8 bytes of a character are those of Lean's own encoder. -/
theorem utf8Char_eq (c : Char) : utf8Char c = (String.utf8EncodeChar c).map UInt8.toBitVec := by
  have hlt : c.toNat < 0x110000 := by
    obtain h | ⟨-, h⟩ := c.valid
    · exact Nat.lt_trans h (by decide)
    · exact h
  have hval : c.val.toNat = c.toNat := rfl
  unfold utf8Char String.utf8EncodeChar
  simp only [hval, ← Nat.lt_add_one_iff, Nat.reduceAdd]
  split_ifs <;> simp only [List.map_cons, List.map_nil, List.cons.injEq, and_true]
  · exact ofNat_eq_toBitVec rfl
  · exact ⟨ofNat_eq_toBitVec (by omega), ofNat_eq_toBitVec (by omega)⟩
  · exact ⟨ofNat_eq_toBitVec (by omega), ofNat_eq_toBitVec (by omega),
      ofNat_eq_toBitVec (by omega)⟩
  · exact ⟨ofNat_eq_toBitVec (by omega), ofNat_eq_toBitVec (by omega),
      ofNat_eq_toBitVec (by omega), ofNat_eq_toBitVec (by omega)⟩

theorem utf8_eq (text : List Char) :
    utf8 text = (text.flatMap String.utf8EncodeChar).map UInt8.toBitVec := by
  rw [utf8, funext utf8Char_eq, List.map_flatMap]

/-- Texts with the same UTF-8 bytes are the same text. -/
theorem utf8_injective : Function.Injective utf8 := by
  intro x y h
  rw [utf8_eq, utf8_eq] at h
  have hbytes := List.map_injective_iff.mpr (fun a b => UInt8.toBitVec_inj.mp) h
  apply String.ofList_injective
  apply String.toByteArray_inj.mp
  exact congrArg List.toByteArray hbytes

/-! ### hex and base64 (rules R214, R215) -/

theorem hex_length (d : List Byte) : (hex d).length = 2 * d.length := by
  simp [hex, List.length_flatMap, Nat.mul_comm]

/-- The base64 alphabet has neither '.' nor the filling '=' (rule R215). -/
theorem base64Digit_ne (n : Nat) : '.' ≠ base64Digit n ∧ '=' ≠ base64Digit n := by
  by_cases h : n < 64
  · revert n
    decide
  · simp [base64Digit, show ¬ n < 26 by omega, show ¬ n < 52 by omega, show ¬ n < 62 by omega,
      show n ≠ 62 by omega]

/-- Base64 of 3k + 2 bytes: 4k + 3 characters of the alphabet, and one '='. -/
theorem base64_eq_concat (k : Nat) (d : List Byte) (hd : d.length = 3 * k + 2) :
    ∃ body, base64 d = body ++ ['='] ∧ body.length = 4 * k + 3 ∧ '.' ∉ body ∧ '=' ∉ body := by
  induction k generalizing d with
  | zero =>
    obtain ⟨a, b, rfl⟩ := List.length_eq_two.mp hd
    exact ⟨[_, _, _], rfl, rfl, by simp [base64Digit_ne], by simp [base64Digit_ne]⟩
  | succ k ih =>
    match d, hd with
    | a :: b :: c :: rest, hd =>
      obtain ⟨body, hbody, hlength, hdot, hfill⟩ := ih rest (by simp at hd; omega)
      refine ⟨_ :: _ :: _ :: _ :: body, by rw [base64, hbody]; rfl, by simp [hlength]; omega, ?_, ?_⟩
      · simp [base64Digit_ne, hdot]
      · simp [base64Digit_ne, hfill]

/-- A text with one trailing '=' loses just that. -/
theorem stripPadding_concat {body : List Char} (h : '=' ∉ body) :
    stripPadding (body ++ ['=']) = body := by
  have hkeep : body.reverse.dropWhile (· == '=') = body.reverse := by
    cases hrev : body.reverse with
    | nil => rfl
    | cons c rest =>
      have hc : c ∈ body := List.mem_reverse.mp (by simp [hrev])
      have hne : c ≠ '=' := fun heq => h (heq ▸ hc)
      simp [hne]
  simp [stripPadding, hkeep]

/-- The signature text of a 32-byte digest: base64 without its one '='. -/
theorem base64_of_digest {d : List Byte} (hd : d.length = 32) :
    base64 d = stripPadding (base64 d) ++ ['='] ∧ (stripPadding (base64 d)).length = 43 ∧
      '.' ∉ stripPadding (base64 d) ∧ '=' ∉ stripPadding (base64 d) := by
  obtain ⟨body, hbody, hlength, hdot, hfill⟩ := base64_eq_concat 10 d hd
  rw [hbody, stripPadding_concat hfill]
  exact ⟨rfl, hlength, hdot, hfill⟩

/-- Settles O60: base64 of 32 bytes is 43 characters of the alphabet and one '='. -/
theorem signatureShapes : Obligations.SignatureShapes := by
  refine ⟨fun d hd => ?_, fun message s => rfl⟩
  obtain ⟨hsplit, hlength, hdot, hfill⟩ := base64_of_digest hd
  refine ⟨by rw [hex_length, hd], hd, ?_, ?_, hlength, hdot, hfill, fun message => ?_⟩
  · rw [hsplit, List.length_append, hlength]
    rfl
  · rw [hsplit, List.getLast?_concat]
  · rw [signedValue, List.length_append, List.length_cons, hlength]

/-! ### The part before the last '.' (rule R218) -/

theorem beforeLastDot_append (message : List Char) {tail : List Char} (h : '.' ∉ tail) :
    beforeLastDot (message ++ '.' :: tail) = some message := by
  have hskip : tail.reverse.dropWhile (· != '.') = [] := by
    rw [List.dropWhile_eq_nil_iff]
    intro c hc
    have hne : c ≠ '.' := fun heq => h (by simpa [heq] using hc)
    simpa using hne
  simp [beforeLastDot, List.dropWhile_append, hskip]

/-- A text with a '.' is more than the part before the last one. -/
theorem length_lt_of_beforeLastDot {text message : List Char}
    (h : beforeLastDot text = some message) : message.length < text.length := by
  unfold beforeLastDot at h
  split at h
  · rename_i hdot
    obtain rfl := Option.some.inj h
    have hle := (List.dropWhile_sublist (l := text.reverse) (· != '.')).length_le
    have hpos := List.length_pos_of_mem hdot
    simp at hle ⊢
    omega
  · cases h

end Sys2Proof.Machine.Boundary
end

section
/-!
What the host's accesses do to the block: a command, bytes put in a window, DOUT and STATUS read, bytes
delivered in pieces, and the accesses a locked block ignores.
-/

namespace Sys2Proof.Machine.Boundary

/-! ### A command through the bus (rules R96, R100) -/

theorem command_of_exec {i : Instr} {s t : State} (h : exec i s = .next t) : command i s = t := by
  rw [command, write, busWrite_command, serveCommand_of_decode_ok (decode_encode i), h]

theorem write_of_ne {off : Offset} (h : off ≠ offCmd) (v : Word) (s : State) :
    write off v s = regWrite off v s := by
  rw [write, busWrite_register off v s h]

/-! ### Words of four bytes (rules R64, R65) -/

/-- A little-endian store of a word of four lanes puts the lanes' bytes in memory. -/
theorem storeBytes_lanes (b0 b1 b2 b3 : Byte) :
    storeBytes (b0.setWidth 32 ||| (b1.setWidth 32 <<< 8) ||| (b2.setWidth 32 <<< 16) |||
      (b3.setWidth 32 <<< 24)) = [b0, b1, b2, b3] := by
  simp only [storeBytes, List.cons.injEq, and_true]
  refine ⟨?_, ?_, ?_, ?_⟩ <;>
    · ext j hj
      interval_cases j <;> simp

/-- Lane j of a word is byte j of its little-endian store. -/
theorem getD_storeBytes (v : Word) {j : Nat} (hj : j < 4) :
    (storeBytes v).getD j 0 = v.extractLsb' (8 * j) 8 := by
  interval_cases j <;> rfl

theorem extractLsb'_packWord (bytes : List Byte) (k : Nat) {j : Nat} (hj : j < 4) :
    (packWord bytes k).extractLsb' (8 * j) 8 = bytes.getD (4 * k + j) 0 := by
  rw [← getD_storeBytes _ hj, packWord, storeBytes_lanes]
  interval_cases j <;> rfl

/-- GET.DOUT reads DOUT (rule R100). -/
theorem getDout_eq (s : State) : getDout s = s.dout.toList := by
  have hword (k : Nat) (hk : k ∈ List.range 8) :
      storeBytes (busRead (offDout + BitVec.ofNat 8 (4 * k)) s) =
        (List.range' (4 * k) 4).map fun i => s.dout.getD i 0 := by
    have hk8 := List.mem_range.mp hk
    have hoff : (offDout + BitVec.ofNat 8 (4 * k)).toNat = 0x20 + 4 * k := by
      simp [offDout, BitVec.toNat_add]
      omega
    rw [busRead, regRead_dout hoff (by omega), laneRead, storeBytes_lanes]
    rfl
  rw [getDout, List.flatMap_congr hword, toList_eq_map_getD s.dout 0]
  rfl

theorem csField_eq (s : State) : csField s = s.cmp.cs.code := by
  obtain ⟨-, -, hcs, -⟩ := statusShowsEveryField.2 s
  exact hcs

theorem verdictBit_eq (s : State) : verdictBit s = s.cmp.eq := by
  obtain ⟨-, -, -, heq, -⟩ := statusShowsEveryField.2 s
  exact heq

/-! ### Bytes put in a window (rule R100) -/

/-- A window of 64 bytes after the words `ks` of `bytes` were written to it. -/
def putWords (bytes : List Byte) (ks : List Nat) (r : Vector Byte 64) : Vector Byte 64 :=
  ks.foldl (fun r k => laneWrite r (4 * k) (packWord bytes k)) r

/-- A window of 64 bytes after `bytes` were put in it. -/
def putBytes (bytes : List Byte) (r : Vector Byte 64) : Vector Byte 64 :=
  putWords bytes (List.range ((bytes.length + 3) / 4)) r

/-- The words written to a window, where `set` puts a window in the state. -/
theorem writes_words {start : Offset} {set : Vector Byte 64 → State}
    (hset : ∀ k v r, k < 16 →
      write (start + BitVec.ofNat 8 (4 * k)) v (set r) = set (laneWrite r (4 * k) v))
    (bytes : List Byte) {ks : List Nat} (hks : ∀ k ∈ ks, k < 16) (r : Vector Byte 64) :
    writes (ks.map fun k => (start + BitVec.ofNat 8 (4 * k), packWord bytes k)) (set r) =
      set (putWords bytes ks r) := by
  induction ks generalizing r with
  | nil => rfl
  | cons k ks ih =>
    simp only [List.mem_cons, forall_eq_or_imp] at hks
    obtain ⟨hk, hks⟩ := hks
    have hrest := ih hks (laneWrite r (4 * k) (packWord bytes k))
    rwa [← hset k _ r hk] at hrest

theorem writes_putWrites {start : Offset} {set : Vector Byte 64 → State}
    (hset : ∀ k v r, k < 16 →
      write (start + BitVec.ofNat 8 (4 * k)) v (set r) = set (laneWrite r (4 * k) v))
    {bytes : List Byte} (hbytes : bytes.length ≤ 64) (r : Vector Byte 64) :
    writes (putWrites start bytes) (set r) = set (putBytes bytes r) := by
  refine writes_words hset bytes (fun k hk => ?_) r
  have hcount := List.mem_range.mp hk
  omega

/-- PUT.DATA writes DATA only. -/
theorem putData_eq {bytes : List Byte} (h : bytes.length ≤ 64) (s : State) :
    putData bytes s = s.withData (putBytes bytes s.data) := by
  refine writes_putWrites (set := s.withData) (fun k v r hk => ?_) h s.data
  have hoff : (offData + BitVec.ofNat 8 (4 * k)).toNat = 0x40 + 4 * k := by
    simp [offData, BitVec.toNat_add]
    omega
  rw [write_of_ne (ne_of_toNat_lt (by simp [hoff, offCmd]; omega)), regWrite_data hoff (by omega)]
  rfl

/-- PUT.DATB writes DATB only. -/
theorem putDatb_eq {bytes : List Byte} (h : bytes.length ≤ 64) (s : State) :
    putDatb bytes s = s.withDatb (putBytes bytes s.datb) := by
  refine writes_putWrites (set := s.withDatb) (fun k v r hk => ?_) h s.datb
  have hoff : (offDatb + BitVec.ofNat 8 (4 * k)).toNat = 0x80 + 4 * k := by
    simp [offDatb, BitVec.toNat_add]
    omega
  rw [write_of_ne (ne_of_toNat_lt (by simp [hoff, offCmd]; omega)), regWrite_datb hoff (by omega)]
  rfl

/-- The first n words of `bytes`, byte by byte. -/
theorem getD_putWords (bytes : List Byte) {n : Nat} (hn : n ≤ 16) (r : Vector Byte 64) (j : Nat) :
    (putWords bytes (List.range n) r).getD j 0 =
      if j < 4 * n then bytes.getD j 0 else r.getD j 0 := by
  induction n with
  | zero => rfl
  | succ n ih =>
    have hlast : putWords bytes (List.range (n + 1)) r =
        laneWrite (putWords bytes (List.range n) r) (4 * n) (packWord bytes n) := by
      simp only [putWords, List.range_succ, List.foldl_append, List.foldl_cons, List.foldl_nil]
    rw [hlast, getD_laneWrite_word _ (by omega), ih (by omega), extractLsb'_packWord _ _ (by omega)]
    by_cases hword : j / 4 = n
    · rw [if_pos hword, if_pos (by omega), show 4 * n + j % 4 = j by omega]
    · rw [if_neg hword]
      exact if_congr (by omega) rfl rfl

/-- The bytes put in a window stand at its start. -/
theorem take_putBytes {bytes : List Byte} (h : bytes.length ≤ 64) (r : Vector Byte 64) :
    (putBytes bytes r).toList.take bytes.length = bytes := by
  rw [toList_eq_map_getD _ 0, ← List.map_take, List.take_range, Nat.min_eq_left h]
  apply List.ext_getElem (by simp)
  intro j hj hj'
  rw [List.getElem_map, List.getElem_range, putBytes, getD_putWords _ (by omega),
    if_pos (by omega), List.getD_eq_getElem _ _ hj']

/-! ### Bytes delivered in pieces (rules R211–R213) -/

theorem flatten_piecesFrom {k : Nat} {bytes : List Byte} (h : bytes.length ≤ 64 * k) :
    (piecesFrom k bytes).flatten = bytes := by
  induction k generalizing bytes with
  | zero => simp_all [piecesFrom]
  | succ k ih =>
    rw [piecesFrom, List.flatten_cons, ih (by rw [List.length_drop]; omega), List.take_append_drop]

theorem length_le_of_mem_piecesFrom {k : Nat} {bytes p : List Byte} (h : p ∈ piecesFrom k bytes) :
    p.length ≤ 64 := by
  induction k generalizing bytes with
  | zero => cases h
  | succ k ih =>
    obtain rfl | h := List.mem_cons.mp h
    · exact List.length_take_le _ _
    · exact ih h

theorem flatten_pieces (bytes : List Byte) : (pieces bytes).flatten = bytes :=
  flatten_piecesFrom (by omega)

/-- What each piece appends, a list of pieces appends. -/
theorem sendPieces_induction {P : List Byte → State → Prop} {cmd : Byte → Instr}
    (hpiece : ∀ m p s, p.length ≤ 64 → P m s → P (m ++ p) (sendPiece cmd p s))
    {ps : List (List Byte)} (hps : ∀ p ∈ ps, p.length ≤ 64) {m : List Byte} {s : State} (h : P m s) :
    P (m ++ ps.flatten) (ps.foldl (fun s p => sendPiece cmd p s) s) := by
  induction ps generalizing m s with
  | nil => simpa using h
  | cons p ps ih =>
    simp only [List.mem_cons, forall_eq_or_imp] at hps
    obtain ⟨hp, hps⟩ := hps
    rw [List.flatten_cons, ← List.append_assoc]
    exact ih hps (hpiece m p s hp h)

/-- What each piece appends, all pieces of a byte sequence append. -/
theorem send_induction {P : List Byte → State → Prop} {cmd : Byte → Instr}
    (hpiece : ∀ m p s, p.length ≤ 64 → P m s → P (m ++ p) (sendPiece cmd p s))
    {m : List Byte} {s : State} (h : P m s) (bytes : List Byte) :
    P (m ++ bytes) (send cmd bytes s) := by
  have hall := sendPieces_induction hpiece (ps := pieces bytes)
    (fun _ => length_le_of_mem_piecesFrom) h
  rwa [flatten_pieces] at hall

/-- Sending a piece is its command on a state with the piece at the start of DATA. -/
theorem sendPiece_eq (cmd : Byte → Instr) {p : List Byte} (h : p.length ≤ 64) (s : State) :
    ∃ n x, n.toNat ≤ 64 ∧ x.toList.take n.toNat = p ∧
      sendPiece cmd p s = command (cmd n) (s.withData x) := by
  have hn : (BitVec.ofNat 8 p.length).toNat = p.length := by
    rw [BitVec.toNat_ofNat, Nat.mod_eq_of_lt (by omega)]
  refine ⟨BitVec.ofNat 8 p.length, putBytes p s.data, by omega, ?_, ?_⟩
  · rw [hn, take_putBytes h]
  · rw [sendPiece, putData_eq h]

end Sys2Proof.Machine.Boundary
end

section
/-!
A block that is locked, or gets locked by a procedure's first command: it ignores the commands after
that, and the check finds the error (rules R220, R264).
-/

namespace Sys2Proof.Machine

/-- Two states that differ at most in the data windows and the comparison unit: all that a host can
write in a locked block. -/
def State.sameButOperands (s t : State) : Prop :=
  t = { s with cmp := t.cmp, data := t.data, datb := t.datb }

theorem State.sameButOperands_refl (s : State) : s.sameButOperands s := rfl

theorem State.sameButOperands_withData {s t : State} (h : s.sameButOperands t) (x : Vector Byte 64) :
    s.sameButOperands (t.withData x) := by
  rw [State.sameButOperands] at h ⊢
  rw [h]
  rfl

theorem State.sameButOperands_trans {s t u : State} (hst : s.sameButOperands t)
    (htu : t.sameButOperands u) : s.sameButOperands u := by
  rw [State.sameButOperands] at htu ⊢
  rw [htu, hst]

theorem State.err_of_sameButOperands {s t : State} (h : s.sameButOperands t) : t.err = s.err := by
  rw [h]

theorem resetBlock_of_sameButOperands {s t : State} (h : s.sameButOperands t) :
    resetBlock t = resetBlock s := by
  rw [h]
  rfl

end Sys2Proof.Machine

namespace Sys2Proof.Machine.Boundary

theorem command_of_locked {i : Instr} (hi : i ≠ .softReset) {s : State}
    (hl : s.err.locked = true) : command i s = s :=
  command_of_exec (exec_locked hi hl)

/-- Bytes sent to a locked block reach DATA only. -/
theorem send_of_locked {cmd : Byte → Instr} (hcmd : ∀ n, cmd n ≠ .softReset) (bytes : List Byte)
    {s : State} (hl : s.err.locked = true) : s.sameButOperands (send cmd bytes s) := by
  refine send_induction (P := fun _ t => s.sameButOperands t) (m := []) (fun _ p t hp h => ?_)
    s.sameButOperands_refl bytes
  obtain ⟨n, x, -, -, hsend⟩ := sendPiece_eq cmd hp t
  have hx := State.sameButOperands_withData h x
  rwa [hsend, command_of_locked (hcmd n) (by rw [State.err_of_sameButOperands hx, hl])]

/-- A block that `check` finds in an error other than UNSUPPORTED_ALG (rule R220). -/
def lockedInternal (s : State) : Prop := s.err.locked = true ∧ s.err.code ≠ .unsupportedAlg

/-- On a block locked by such an error, or in a state it is not legal in, a command leaves one locked by
such an error. -/
theorem lockedInternal_command {i : Instr} (hi : i ≠ .softReset) {s : State}
    (h : lockedInternal s ∨
      (s.err.locked = false ∧ firstFailing (checksOf i s) = some .sequence)) :
    lockedInternal (command i s) ∧ resetBlock (command i s) = resetBlock s := by
  obtain h | ⟨hl, hchecks⟩ := h
  · rw [command_of_locked hi h.1]
    exact ⟨h, rfl⟩
  · rw [command_of_exec (exec_fails hi hl hchecks)]
    exact ⟨⟨rfl, by simp⟩, rfl⟩

theorem check_of_lockedInternal {α : Type} {s t : State} (h : lockedInternal s)
    (hst : s.sameButOperands t) (onward : State → Outcome α) :
    check t onward = (resetBlock s, .error .internal) := by
  have herr := State.err_of_sameButOperands hst
  rw [check_internal onward (by rw [herr, h.1]) (by rw [herr]; exact h.2),
    resetBlock_of_sameButOperands hst]

end Sys2Proof.Machine.Boundary
end

section
/-!
The host procedures HASH and HMAC (obligations O55, O56).
-/

namespace Sys2Proof.Machine.Boundary

/-! ### HASH (rules R211, R220) -/

/-- A direct digest computation is in progress, with the bytes `m` absorbed and the comparison unit as
it was. -/
structure Hashing (c : CmpRegs) (m : List Byte) (s : State) : Prop where
  unlocked : s.err.locked = false
  hs : s.hs = .sha
  absorbed : s.dp.Absorbed m
  cmp : s.cmp = c

theorem hashing_shaInit {s : State} (hl : s.err.locked = false) (hq : s.hs.quiescent = true) :
    Hashing s.cmp [] (command .shaInit s) := by
  rw [command_of_exec (exec_runs (by decide) hl (by simp [checksOf, hq]))]
  exact ⟨hl, rfl, s.dp.absorbed_coreInit, rfl⟩

theorem hashing_sendPiece {c : CmpRegs} {m p : List Byte} {s : State} (hp : p.length ≤ 64)
    (h : Hashing c m s) : Hashing c (m ++ p) (sendPiece .shaUpdate p s) := by
  obtain ⟨hl, hs, habsorbed, hcmp⟩ := h
  obtain ⟨n, x, hn, rfl, hsend⟩ := sendPiece_eq .shaUpdate hp s
  obtain ⟨d, hexec, hd⟩ :=
    absorbingDependsOnlyOnTheBytes.1 n m (s.withData x) hl hn hs habsorbed
  rw [hsend, command_of_exec hexec]
  exact ⟨hl, hs, hd, hcmp⟩

/-- HASH from a quiescent state: the digest of the bytes sent. -/
theorem hash_of_quiescent (m : List Byte) {s : State} (hl : s.err.locked = false)
    (hq : s.hs.quiescent = true) : ∃ t, hash m s = (t, .ok (Reference.sha256 m)) ∧
      t.err.locked = false ∧ t.hs = .shaDone ∧ t.cmp = s.cmp := by
  obtain ⟨hlocked, hsha, habsorbed, hcmp⟩ := send_induction (P := Hashing s.cmp)
    (fun _ _ _ hp h => hashing_sendPiece hp h) (hashing_shaInit hl hq) m
  obtain ⟨t, hexec, hdout, hhs, -, -, htcmp, herr, -⟩ :=
    shaFinalPublishesSha256.1 _ _ hlocked hsha habsorbed
  have htl : t.err.locked = false := by rw [herr, hlocked]
  refine ⟨t, ?_, htl, hhs, htcmp.trans hcmp⟩
  rw [hash, command_of_exec hexec, check_unlocked _ htl, getDout_eq, hdout]
  rfl

/-- On a locked block the commands of HASH reach DATA only. -/
theorem sameButOperands_hash (m : List Byte) {s : State} (hl : s.err.locked = true) :
    s.sameButOperands (command .shaFinal (send .shaUpdate m s)) := by
  have hsend := send_of_locked (cmd := .shaUpdate) (by simp) m hl
  rwa [command_of_locked (by decide) (by rw [State.err_of_sameButOperands hsend, hl])]

theorem firstFailing_shaInit {s : State} (hq : s.hs.quiescent = false) :
    firstFailing (checksOf .shaInit s) = some .sequence := by
  simp [checksOf, hq]

/-- Settles O55: the digest of the pieces is that of the message, and a locked block ignores them. -/
theorem hostHashIsSha256 : Obligations.HostHashIsSha256 := by
  refine ⟨fun m s hl hq => ?_, fun m s h => ?_, fun m s hl hcode => ?_⟩
  · obtain ⟨t, hhash, htl, hhs, hcmp⟩ := hash_of_quiescent m hl hq
    rw [hhash]
    exact ⟨rfl, htl, hhs, hcmp⟩
  · obtain ⟨hinit, hreset⟩ := lockedInternal_command (i := .shaInit) (by decide)
      (h.imp_right fun ⟨hl, hq⟩ => ⟨hl, firstFailing_shaInit hq⟩)
    rw [hash, check_of_lockedInternal hinit (sameButOperands_hash m hinit.1), hreset]
    rfl
  · have herr := State.err_of_sameButOperands (sameButOperands_hash m hl)
    rw [hash, command_of_locked (i := .shaInit) (by decide) hl,
      check_unsupported _ (by rw [herr, hl]) (by rw [herr, hcode])]
    exact ⟨rfl, herr⟩

/-! ### HMAC (rules R187, R212, R220) -/

/-- An HMAC context has received the key bytes `k`, with the comparison unit as it was. -/
structure Keying (c : CmpRegs) (k : List Byte) (s : State) : Prop where
  unlocked : s.err.locked = false
  received : s.KeyReceived k
  cmp : s.cmp = c

/-- An HMAC context with key `k` has absorbed the message `m`, with the comparison unit as it was. -/
structure Macing (c : CmpRegs) (k m : List Byte) (s : State) : Prop where
  unlocked : s.err.locked = false
  absorbed : s.MessageAbsorbed k m
  cmp : s.cmp = c

theorem keying_hmacBegin {s : State} (hl : s.err.locked = false) (hq : s.hs.quiescent = true) :
    Keying s.cmp [] (command (.hmacBegin 0x01) s) := by
  rw [command_of_exec (exec_runs (by decide) hl (by simp [checksOf, legalAlg, hq]))]
  exact ⟨hl, .inl ⟨rfl, by decide, rfl, Vector.toList_replicate⟩, rfl⟩

theorem keying_sendPiece {c : CmpRegs} {k p : List Byte} {s : State} (hp : p.length ≤ 64)
    (h : Keying c k s) : Keying c (k ++ p) (sendPiece .hmacKey p s) := by
  obtain ⟨hl, hreceived, hcmp⟩ := h
  obtain ⟨n, x, hn, rfl, hsend⟩ := sendPiece_eq .hmacKey hp s
  obtain ⟨t, hexec, ht, herr, htcmp, -⟩ := keyIsNormalized.1 n k (s.withData x) hl hn hreceived
  rw [hsend, command_of_exec hexec]
  exact ⟨by rw [herr]; exact hl, ht, htcmp.trans hcmp⟩

theorem macing_hmacKeyend {c : CmpRegs} {k : List Byte} {s : State} (h : Keying c k s) :
    Macing c k [] (command .hmacKeyend s) := by
  obtain ⟨hl, hreceived, hcmp⟩ := h
  obtain ⟨t, hexec, ht, -, herr, htcmp, -⟩ := keyIsNormalized.2 k s hl hreceived
  rw [command_of_exec hexec]
  exact ⟨by rw [herr, hl], ht, htcmp.trans hcmp⟩

theorem macing_sendPiece {c : CmpRegs} {k m p : List Byte} {s : State} (hp : p.length ≤ 64)
    (h : Macing c k m s) : Macing c k (m ++ p) (sendPiece .hmacMsg p s) := by
  obtain ⟨hl, habsorbed, hcmp⟩ := h
  obtain ⟨n, x, hn, rfl, hsend⟩ := sendPiece_eq .hmacMsg hp s
  obtain ⟨d, hexec, hd⟩ := absorbingDependsOnlyOnTheBytes.2.1 n k m (s.withData x) hl hn habsorbed
  rw [hsend, command_of_exec hexec]
  exact ⟨hl, hd, hcmp⟩

/-- However the message is cut into chunks, it is absorbed. -/
theorem macing_chunks (chunks : List (List Byte)) {c : CmpRegs} {k m : List Byte} {s : State}
    (h : Macing c k m s) :
    Macing c k (m ++ chunks.flatten) (chunks.foldl (fun s c => send .hmacMsg c s) s) := by
  induction chunks generalizing m s with
  | nil => simpa using h
  | cons chunk chunks ih =>
    rw [List.flatten_cons, ← List.append_assoc]
    exact ih (send_induction (P := Macing c k) (fun _ _ _ hp h => macing_sendPiece hp h) h chunk)

/-- HMAC from a quiescent state: the MAC of the key and the chunks sent. -/
theorem hmac_of_quiescent (key : List Byte) (chunks : List (List Byte)) {s : State}
    (hl : s.err.locked = false) (hq : s.hs.quiescent = true) :
    ∃ t, hmac key chunks s = (t, .ok (Reference.hmac key chunks.flatten)) ∧
      t.err.locked = false ∧ t.hs = .hmacDone ∧ t.cmp = s.cmp := by
  have hbegin := keying_hmacBegin hl hq
  have hkey := send_induction (P := Keying s.cmp) (fun _ _ _ hp h => keying_sendPiece hp h) hbegin key
  obtain ⟨hlocked, habsorbed, hcmp⟩ := macing_chunks chunks (macing_hmacKeyend hkey)
  obtain ⟨t, hexec, hdout, hhs, -, -, htcmp, herr, -⟩ :=
    hmacFinalPublishesHmac _ _ _ hlocked habsorbed
  have htl : t.err.locked = false := by rw [herr, hlocked]
  refine ⟨t, ?_, htl, hhs, htcmp.trans hcmp⟩
  rw [hmac, hmacWith, check_unlocked _ hbegin.unlocked, hmacBody, command_of_exec hexec,
    check_unlocked _ htl, getDout_eq, hdout]
  rfl

/-- HMAC on a block locked by UNSUPPORTED_ALG: the check after HMAC.BEGIN reports it. -/
theorem hmacWith_of_unsupported (alg : Byte) (key : List Byte) (chunks : List (List Byte)) {s : State}
    (hl : s.err.locked = true) (hcode : s.err.code = .unsupportedAlg) :
    hmacWith alg key chunks s = (s, .error .unsupportedAlgorithm) := by
  rw [hmacWith, command_of_locked (by simp) hl, check_unsupported _ hl hcode]

/-- HMAC on a block locked by another error, or with a digest in progress. -/
theorem hmac_of_busy (key : List Byte) (chunks : List (List Byte)) {s : State}
    (h : lockedInternal s ∨ (s.err.locked = false ∧ s.hs.quiescent = false)) :
    hmac key chunks s = (resetBlock s, .error .internal) := by
  obtain ⟨hbegin, hreset⟩ := lockedInternal_command (i := .hmacBegin 0x01) (by decide)
    (h.imp_right fun ⟨hl, hq⟩ => ⟨hl, by simp [checksOf, legalAlg, hq]⟩)
  rw [hmac, hmacWith, check_internal _ hbegin.1 hbegin.2, hreset]

/-- Settles O56: the MAC of what was sent, and the failure that the check after HMAC.BEGIN finds. -/
theorem hostHmacIsHmac : Obligations.HostHmacIsHmac := by
  refine ⟨fun key chunks s hl hq => ?_, fun alg key chunks s hl halg => ?_,
    fun alg key chunks s hl hcode => hmacWith_of_unsupported alg key chunks hl hcode,
    fun key chunks s h => hmac_of_busy key chunks h⟩
  · obtain ⟨t, hhmac, htl, hhs, hcmp⟩ := hmac_of_quiescent key chunks hl hq
    rw [hhmac]
    exact ⟨rfl, htl, hhs, hcmp⟩
  · have hchecks : firstFailing (checksOf (.hmacBegin alg) s) = some .unsupportedAlg := by
      simp_all [checksOf, legalAlg]
    rw [hmacWith, command_of_exec (exec_fails (by simp) hl hchecks), check_unsupported _ rfl rfl]
    rfl

end Sys2Proof.Machine.Boundary
end

section
/-!
One comparison on the unit: CMP.BEGIN at equal lengths, bytes fed, CMP.END (rules R230 to R233).
-/

namespace Sys2Proof.Machine

/-- The accumulator stays 0 exactly when the strings examined are equal (rule R230). -/
theorem accumulate_zip_eq_zero_iff {xs ys : List Byte} (h : xs.length = ys.length) (acc : Byte) :
    accumulate acc (xs.zip ys) = 0 ↔ acc = 0 ∧ xs = ys := by
  induction xs generalizing ys acc with
  | nil => simp [List.length_eq_zero_iff.mp h.symm]
  | cons x xs ih =>
    cases ys with
    | nil => cases h
    | cons y ys =>
      have hbyte : acc ||| (x ^^^ y) = 0 ↔ acc = 0 ∧ x = y :=
        BitVec.or_eq_zero_iff.trans (and_congr_right' BitVec.xor_eq_zero_iff)
      rw [List.zip_cons_cons, accumulate_cons, ih (Nat.succ.inj h), hbyte, List.cons.injEq, and_assoc]

/-- CMP.BEGIN where it is legal (rule R231). -/
theorem exec_cmpBegin {s : State} (hl : s.err.locked = false) (hs : s.cmp.cs ≠ .active) :
    exec .cmpBegin s = .next (s.withCmp (beginCompare s.cmp)) :=
  exec_runs (by decide) hl (by simp [checksOf, hs])

/-- CMP.FEED N where it is legal (rule R232). -/
theorem exec_cmpFeed {n : Byte} {s : State} (hl : s.err.locked = false) (hn : n.toNat ≤ 64)
    (hs : s.cmp.cs = .active) (hremain : n.toNat ≤ s.cmp.remain.toNat) :
    exec (.cmpFeed n) s = .next (effectOf (.cmpFeed n) s) :=
  exec_runs (by simp) hl
    (by simp [checksOf, Nat.not_lt.mpr hn, hs, Nat.not_lt.mpr hremain])

/-- CMP.END where it is legal and every byte was fed (rule R233). -/
theorem exec_cmpEnd {s : State} (hl : s.err.locked = false) (hs : s.cmp.cs = .active)
    (hremain : s.cmp.remain = 0) : exec .cmpEnd s = .next (s.withCmp (endCompare s.cmp)) :=
  exec_runs (by decide) hl (by simp [checksOf, hs, hremain])

/-- CMP.BEGIN at different lengths decides at once (rule R231). -/
theorem beginCompare_of_length_ne {c : CmpRegs} (h : c.lenA ≠ c.lenB) :
    (beginCompare c).cs = .done ∧ (beginCompare c).eq = false := by
  rw [beginCompare, if_pos h]
  exact ⟨rfl, rfl⟩

/-- CMP.BEGIN at equal lengths starts a comparison of strings of that length. -/
theorem State.compared_begin {s : State} (h : s.cmp.lenA = s.cmp.lenB) :
    (s.withCmp (beginCompare s.cmp)).Compared s.cmp.lenA.toNat [] [] := by
  have hbegin : beginCompare s.cmp =
      { s.cmp with acc := 0, eq := false, remain := s.cmp.lenA, cs := .active } := by
    simp [beginCompare, h]
  rw [hbegin]
  exact ⟨rfl, rfl, rfl, by simp⟩

/-- What CMP.FEED takes from the windows is appended to the strings compared. -/
theorem State.compared_feed {total : Nat} {a b : List Byte} {n : Byte} {s : State}
    (h : s.Compared total a b) (hn : n.toNat ≤ 64) (hremain : n.toNat ≤ s.cmp.remain.toNat) :
    (effectOf (.cmpFeed n) s).Compared total
      (a ++ firstBytes n s.data) (b ++ firstBytes n s.datb) := by
  obtain ⟨hs, hlength, htotal, hacc⟩ := h
  have hdata := firstBytes_length hn s.data
  have hfed : (firstBytes n s.data).length = (firstBytes n s.datb).length := by
    rw [hdata, firstBytes_length hn]
  refine ⟨hs, ?_, ?_, ?_⟩
  · rw [List.length_append, List.length_append, hlength, hfed]
  · have hwidth : (n.setWidth 32).toNat = n.toNat := by
      rw [BitVec.toNat_setWidth, Nat.mod_eq_of_lt (by omega)]
    rw [effectOf, State.withCmp_cmp, BitVec.toNat_sub_of_le (BitVec.le_def.mpr (by omega)), hwidth,
      List.length_append, hdata]
    omega
  · have hsplit : a ++ firstBytes n s.data = b ++ firstBytes n s.datb ↔
        a = b ∧ firstBytes n s.data = firstBytes n s.datb :=
      ⟨fun heq => List.append_inj heq hlength, fun ⟨hab, hnew⟩ => by rw [hab, hnew]⟩
    rw [hsplit, ← hacc]
    exact accumulate_zip_eq_zero_iff hfed s.cmp.acc

/-- CMP.END gives the verdict on the strings compared. -/
theorem State.compared_end {total : Nat} {a b : List Byte} {s : State} (h : s.Compared total a b) :
    (endCompare s.cmp).cs = .done ∧ (endCompare s.cmp).eq = decide (a = b) := by
  obtain ⟨hs, -, -, hacc⟩ := h
  rw [endCompare, if_pos hs]
  exact ⟨rfl, (Bool.beq_eq_decide_eq _ _).trans (decide_eq_decide.mpr hacc)⟩

end Sys2Proof.Machine
end

section
/-!
The host procedure CT_EQUAL (obligation O57).
-/

namespace Sys2Proof.Machine.Boundary

/-! ### Pieces of two strings, side by side (rule R213) -/

theorem setLen_eq (a b : Word) (s : State) :
    setLen a b s = s.withCmp { s.cmp with lenA := a, lenB := b } := rfl

/-- Feeding a pair of pieces is CMP.FEED on a state with the pieces at the start of DATA and DATB. -/
theorem feedPiece_eq {p q : List Byte} (hp : p.length ≤ 64) (hpq : p.length = q.length) (s : State) :
    ∃ n x y, n.toNat = p.length ∧ firstBytes n x = p ∧ firstBytes n y = q ∧
      feedPiece (p, q) s = command (.cmpFeed n) ((s.withData x).withDatb y) := by
  have hn : (BitVec.ofNat 8 p.length).toNat = p.length := by
    rw [BitVec.toNat_ofNat, Nat.mod_eq_of_lt (by omega)]
  refine ⟨BitVec.ofNat 8 p.length, putBytes p s.data, putBytes q s.datb, hn, ?_, ?_, ?_⟩
  · rw [firstBytes, hn, take_putBytes hp]
  · rw [firstBytes, hn, hpq, take_putBytes (by omega)]
  · rw [feedPiece, putData_eq hp, putDatb_eq (hpq ▸ hp)]
    rfl

/-- A comparison of strings of `total` bytes is active on the block `s`, and was fed `a` and `b`. -/
structure Comparing (s : State) (total : Nat) (a b : List Byte) (t : State) : Prop where
  unlocked : t.err.locked = false
  compared : t.Compared total a b
  others : s.sameButOperands t

theorem comparing_feedPiece {s t : State} {total : Nat} {a b p q : List Byte}
    (h : Comparing s total a b t) (hp : p.length ≤ 64) (hpq : p.length = q.length)
    (htotal : a.length + p.length ≤ total) :
    Comparing s total (a ++ p) (b ++ q) (feedPiece (p, q) t) := by
  obtain ⟨hl, hcompared, hothers⟩ := h
  obtain ⟨n, x, y, hn, rfl, rfl, hfeed⟩ := feedPiece_eq hp hpq t
  have ⟨hs, _, hremain, _⟩ := hcompared
  have hfits : n.toNat ≤ t.cmp.remain.toNat := by omega
  have hn64 : n.toNat ≤ 64 := by omega
  rw [hfeed, command_of_exec (exec_cmpFeed (s := (t.withData x).withDatb y) hl hn64 hs hfits)]
  refine ⟨hl, State.compared_feed (s := (t.withData x).withDatb y) hcompared hn64 hfits, ?_⟩
  rw [hothers]
  rfl

/-- The first k pieces of two strings of one length are fed. -/
theorem comparing_piecesFrom (k : Nat) {s t : State} {total : Nat} {a b x y : List Byte}
    (h : Comparing s total a b t) (hk : x.length ≤ 64 * k) (hxy : x.length = y.length)
    (htotal : a.length + x.length ≤ total) :
    Comparing s total (a ++ x) (b ++ y)
      (((piecesFrom k x).zip (piecesFrom k y)).foldl (fun s p => feedPiece p s) t) := by
  induction k generalizing a b x y t with
  | zero =>
    obtain rfl := List.length_eq_zero_iff.mp (Nat.le_zero.mp hk)
    obtain rfl := List.length_eq_zero_iff.mp hxy.symm
    simpa [piecesFrom] using h
  | succ k ih =>
    have hfirst := comparing_feedPiece (p := x.take 64) (q := y.take 64) h (by simp)
      (by simp [hxy]) (by simp; omega)
    have hrest := ih (x := x.drop 64) (y := y.drop 64) hfirst (by simp; omega) (by simp [hxy])
      (by simp; omega)
    rwa [List.append_assoc, List.append_assoc, List.take_append_drop, List.take_append_drop] at hrest

theorem comparing_pieces {s t : State} {a b : List Byte} (h : Comparing s a.length [] [] t)
    (hab : a.length = b.length) :
    Comparing s a.length a b
      (((pieces a).zip (pieces b)).foldl (fun s p => feedPiece p s) t) := by
  have hall := comparing_piecesFrom ((a.length + 63) / 64) h (by omega) hab (by simp)
  rwa [pieces, pieces, ← hab]

/-! ### One comparison (rule R213) -/

/-- What a comparison that decides leaves: an unlocked block with the verdict standing, and the hash
unit as it was. -/
structure DecidedOn (s t : State) : Prop where
  unlocked : t.err.locked = false
  done : t.cmp.cs = .done
  others : s.sameButOperands t

/-- SETLEN and CMP.BEGIN (rules R100, R231). -/
theorem command_cmpBegin_setLen {s : State} (hl : s.err.locked = false) (hs : s.cmp.cs ≠ .active)
    (a b : Word) : command .cmpBegin (setLen a b s) =
      s.withCmp (beginCompare (setLen a b s).cmp) :=
  command_of_exec (exec_cmpBegin (s := setLen a b s) hl hs)

/-- At different lengths CMP.BEGIN decides. -/
theorem compareOnce_of_length_ne {a b : List Byte} {s : State} (hl : s.err.locked = false)
    (hs : s.cmp.cs ≠ .active) (hab : BitVec.ofNat 32 a.length ≠ BitVec.ofNat 32 b.length) :
    ∃ t, compareOnce a b s = (t, .ok false) ∧ DecidedOn s t := by
  obtain ⟨hdone, hverdict⟩ := beginCompare_of_length_ne
    (c := (setLen (BitVec.ofNat 32 a.length) (BitVec.ofNat 32 b.length) s).cmp) hab
  have hdecided : DecidedOn s (s.withCmp (beginCompare
      (setLen (BitVec.ofNat 32 a.length) (BitVec.ofNat 32 b.length) s).cmp)) := ⟨hl, hdone, rfl⟩
  refine ⟨_, ?_, hdecided⟩
  rw [compareOnce, command_cmpBegin_setLen hl hs, check_unlocked _ hdecided.unlocked, csField_eq,
    verdictBit_eq, State.withCmp_cmp, hdone, hverdict]
  rfl

/-- SETLEN and CMP.BEGIN at equal lengths start a comparison. -/
theorem comparing_cmpBegin {a b : List Byte} {s : State} (hl : s.err.locked = false)
    (hs : s.cmp.cs ≠ .active) (ha : a.length < 2 ^ 32) (hab : a.length = b.length) :
    Comparing s a.length [] [] (command .cmpBegin
      (setLen (BitVec.ofNat 32 a.length) (BitVec.ofNat 32 b.length) s)) := by
  have hcompared := State.compared_begin
    (s := setLen (BitVec.ofNat 32 a.length) (BitVec.ofNat 32 a.length) s) rfl
  have hlenA : (setLen (BitVec.ofNat 32 a.length) (BitVec.ofNat 32 a.length) s).cmp.lenA.toNat =
      a.length := by
    rw [setLen_eq, State.withCmp_cmp, BitVec.toNat_ofNat, Nat.mod_eq_of_lt ha]
  rw [hlenA] at hcompared
  rw [← hab, command_cmpBegin_setLen hl hs]
  exact ⟨hl, hcompared, rfl⟩

/-- CMP.END after all bytes were fed decides. -/
theorem decidedOn_cmpEnd {s t : State} {a b : List Byte} (h : Comparing s a.length a b t) :
    DecidedOn s (command .cmpEnd t) ∧ (command .cmpEnd t).cmp.eq = decide (a = b) := by
  obtain ⟨hl, hcompared, hothers⟩ := h
  have ⟨hs, _, hremain, _⟩ := hcompared
  have hzero : t.cmp.remain = 0 := BitVec.eq_of_toNat_eq (by simpa using hremain)
  obtain ⟨hdone, hverdict⟩ := State.compared_end hcompared
  rw [command_of_exec (exec_cmpEnd hl hs hzero)]
  refine ⟨⟨hl, hdone, ?_⟩, hverdict⟩
  rw [hothers]
  rfl

/-- At equal lengths the pieces are fed, and CMP.END decides. -/
theorem compareOnce_of_length_eq {a b : List Byte} {s : State} (hl : s.err.locked = false)
    (hs : s.cmp.cs ≠ .active) (ha : a.length < 2 ^ 32) (hab : a.length = b.length) :
    ∃ t, compareOnce a b s = (t, .ok (decide (a = b))) ∧ DecidedOn s t := by
  have hstart := comparing_cmpBegin hl hs ha hab
  obtain ⟨hdecided, hverdict⟩ := decidedOn_cmpEnd (comparing_pieces hstart hab)
  obtain ⟨hstarted, ⟨hactive, -⟩, -⟩ := hstart
  refine ⟨_, ?_, hdecided⟩
  rw [compareOnce, check_unlocked _ hstarted, csField_eq, hactive, if_neg (by decide),
    check_unlocked _ hdecided.unlocked, verdictBit_eq, hverdict]

/-- Strings of fewer than 2^32 bytes are compared in one comparison, where none is active. -/
theorem compareOnce_of_idle {a b : List Byte} {s : State} (hl : s.err.locked = false)
    (hs : s.cmp.cs ≠ .active) (ha : a.length < 2 ^ 32) (hb : b.length < 2 ^ 32) :
    ∃ t, compareOnce a b s = (t, .ok (decide (a = b))) ∧ DecidedOn s t := by
  by_cases hab : a.length = b.length
  · exact compareOnce_of_length_eq hl hs ha hab
  · have hword : BitVec.ofNat 32 a.length ≠ BitVec.ofNat 32 b.length := by
      rw [Ne, ← BitVec.toNat_inj, BitVec.toNat_ofNat, BitVec.toNat_ofNat, Nat.mod_eq_of_lt ha,
        Nat.mod_eq_of_lt hb]
      exact hab
    rw [decide_eq_false (fun heq => hab (congrArg List.length heq))]
    exact compareOnce_of_length_ne hl hs hword

/-! ### Comparison in parts (rule R213, log entry 19) -/

theorem length_part_lt (k : Nat) (x : List Byte) : (part k x).length < 2 ^ 32 :=
  Nat.lt_of_le_of_lt (List.length_take_le _ _) (by decide)

/-- A run of comparisons decides whether all the parts are equal. -/
theorem compareParts_of_idle (a b : List Byte) (n : Nat) {s : State} (hl : s.err.locked = false)
    (hs : s.cmp.cs ≠ .active) :
    ∃ t, compareParts a b n s = (t, .ok (decide (∀ k ≤ n, part k a = part k b))) ∧
      DecidedOn s t := by
  induction n generalizing s with
  | zero =>
    obtain ⟨t, hcompare, ht⟩ :=
      compareOnce_of_idle hl hs (length_part_lt 0 a) (length_part_lt 0 b)
    refine ⟨t, ?_, ht⟩
    simp [compareParts, hcompare]
  | succ n ih =>
    obtain ⟨t, hcompare, ht⟩ :=
      compareOnce_of_idle hl hs (length_part_lt (n + 1) a) (length_part_lt (n + 1) b)
    by_cases hpart : part (n + 1) a = part (n + 1) b
    · obtain ⟨u, hparts, hu⟩ := ih ht.unlocked (by simp [ht.done])
      have hall : (∀ k ≤ n + 1, part k a = part k b) ↔ ∀ k ≤ n, part k a = part k b := by
        simp [Nat.le_add_one_iff, or_imp, forall_and, hpart]
      refine ⟨u, ?_, hu.unlocked, hu.done, State.sameButOperands_trans ht.others hu.others⟩
      rw [compareParts, hcompare, continueWith_ok, decide_eq_true hpart, if_pos rfl, hparts,
        decide_eq_decide.mpr hall]
    · refine ⟨t, ?_, ht⟩
      have hne : ¬ ∀ k ≤ n + 1, part k a = part k b := fun h => hpart (h _ le_rfl)
      rw [compareParts, hcompare, continueWith_ok, decide_eq_false hpart, decide_eq_false hne]
      rfl

/-- CT_EQUAL decides equality where no comparison is active. -/
theorem ctEqual_of_idle (a b : List Byte) {s : State} (hl : s.err.locked = false)
    (hs : s.cmp.cs ≠ .active) :
    ∃ t, ctEqual a b s = (t, .ok (decide (a = b))) ∧ DecidedOn s t := by
  obtain ⟨t, hparts, ht⟩ :=
    compareParts_of_idle a b ((max a.length b.length - 1) / maxCompared) hl hs
  obtain ⟨ha, hb⟩ := length_le_parts a b
  have hall : (∀ k ≤ (max a.length b.length - 1) / maxCompared, part k a = part k b) ↔ a = b :=
    ⟨eq_of_parts_eq ha hb, fun h k _ => by rw [h]⟩
  refine ⟨t, ?_, ht⟩
  rw [ctEqual, hparts, decide_eq_decide.mpr hall]

/-! ### Failures of a comparison (rule R220) -/

/-- CT_EQUAL begins with a comparison, and fails where that one fails. -/
theorem ctEqual_fails_as_compareOnce (a b : List Byte) (s : State) :
    ∃ x y, ∀ t f, compareOnce x y s = (t, .error f) → ctEqual a b s = (t, .error f) := by
  rw [ctEqual]
  cases (max a.length b.length - 1) / maxCompared with
  | zero => exact ⟨_, _, fun t f h => h⟩
  | succ k => exact ⟨_, _, fun t f h => by rw [compareParts, h, continueWith_error]⟩

/-- CT_EQUAL on a block locked by an error other than UNSUPPORTED_ALG, or with a comparison active. -/
theorem ctEqual_of_busy (a b : List Byte) {s : State}
    (h : lockedInternal s ∨ (s.err.locked = false ∧ s.cmp.cs = .active)) :
    ctEqual a b s = (resetBlock s, .error .internal) := by
  obtain ⟨x, y, hfails⟩ := ctEqual_fails_as_compareOnce a b s
  obtain ⟨hbegin, hreset⟩ := lockedInternal_command (i := .cmpBegin)
    (s := setLen (BitVec.ofNat 32 x.length) (BitVec.ofNat 32 y.length) s) (by decide)
    (h.imp_right fun ⟨hl, hs⟩ => ⟨hl, by simp [checksOf, setLen_eq, hs]⟩)
  apply hfails
  rw [compareOnce, check_of_lockedInternal hbegin (State.sameButOperands_refl _), hreset]
  rfl

/-- CT_EQUAL on a block locked by UNSUPPORTED_ALG. -/
theorem ctEqual_of_unsupported (a b : List Byte) {s : State} (hl : s.err.locked = true)
    (hcode : s.err.code = .unsupportedAlg) :
    ∃ t, ctEqual a b s = (t, .error .unsupportedAlgorithm) ∧ t.err = s.err := by
  obtain ⟨x, y, hfails⟩ := ctEqual_fails_as_compareOnce a b s
  have hset : (setLen (BitVec.ofNat 32 x.length) (BitVec.ofNat 32 y.length) s).err = s.err := rfl
  rw [← hset] at hl hcode
  refine ⟨setLen (BitVec.ofNat 32 x.length) (BitVec.ofNat 32 y.length) s, hfails _ _ ?_, hset⟩
  rw [compareOnce, command_of_locked (by decide) hl, check_unsupported _ hl hcode]

/-- Settles O57: one comparison for short strings, and equality of the parts for all. -/
theorem hostComparisonIsEquality : Obligations.HostComparisonIsEquality := by
  refine ⟨fun a b s hl hs => ?_, fun a b s ha hb => ?_, fun a b s h => ctEqual_of_busy a b h,
    fun a b s hl hcode => ?_⟩
  · obtain ⟨t, hequal, hunlocked, -, hothers⟩ := ctEqual_of_idle a b hl hs
    rw [hequal]
    exact ⟨rfl, hunlocked, by rw [hothers], by rw [hothers], by rw [hothers], by rw [hothers]⟩
  · have hone : (max a.length b.length - 1) / maxCompared = 0 :=
      Nat.div_eq_of_lt (by simp only [maxCompared]; omega)
    rw [ctEqual, hone, compareParts, part_zero ha, part_zero hb]
  · obtain ⟨t, hequal, herr⟩ := ctEqual_of_unsupported a b hl hcode
    rw [hequal]
    exact ⟨rfl, herr⟩

end Sys2Proof.Machine.Boundary
end

section
/-!
Signing and verification: sign then unsign gives the message, and unsign accepts nothing but what sign
makes (obligations O58, O59).
-/

namespace Sys2Proof.Machine.Boundary

/-! ### sign (rules R217, R220) -/

/-- The signed value of a message: the MAC is of the UTF-8 bytes (rule R217). -/
def signedWith (message secret : List Char) : List Char :=
  signedValue message (Reference.hmac (utf8 secret) (utf8 message))

theorem sign_empty (message : List Char) (s : State) : sign message [] s = (s, .ok message) := rfl

theorem sign_of_secret (message : List Char) {secret : List Char} (h : secret ≠ []) (s : State) :
    sign message secret s = caught message
      (continueWith (hmac (utf8 secret) [utf8 message] s) fun t mac =>
        (t, .ok (signedValue message mac))) :=
  if_neg h

/-- sign from a quiescent state: the signed value, and a block that is quiescent again. -/
theorem sign_of_quiescent (message : List Char) {secret : List Char} {s : State}
    (hl : s.err.locked = false) (hq : s.hs.quiescent = true) (hsecret : secret ≠ []) :
    ∃ t, sign message secret s = (t, .ok (signedWith message secret)) ∧
      t.err.locked = false ∧ t.hs.quiescent = true ∧ t.cmp = s.cmp := by
  obtain ⟨t, hmac, htl, hhs, hcmp⟩ := hmac_of_quiescent (utf8 secret) [utf8 message] hl hq
  refine ⟨t, ?_, htl, by rw [hhs]; rfl, hcmp⟩
  rw [sign_of_secret message hsecret, hmac, continueWith_ok, caught_ok, signedWith,
    List.flatten_singleton]

/-- Where HMAC is an internal failure, sign returns the message. -/
theorem sign_of_busy (message : List Char) {secret : List Char} {s : State} (hsecret : secret ≠ [])
    (h : lockedInternal s ∨ (s.err.locked = false ∧ s.hs.quiescent = false)) :
    sign message secret s = (resetBlock s, .ok message) := by
  rw [sign_of_secret message hsecret, hmac_of_busy _ _ h, continueWith_error, caught_internal]

theorem sign_of_unsupported (message : List Char) {secret : List Char} {s : State}
    (hsecret : secret ≠ []) (hl : s.err.locked = true) (hcode : s.err.code = .unsupportedAlg) :
    sign message secret s = (s, .error .unsupportedAlgorithm) := by
  rw [sign_of_secret message hsecret, hmac, hmacWith_of_unsupported _ _ _ hl hcode,
    continueWith_error, caught_unsupported]

/-! ### unsign (rules R218, R220) -/

theorem unsign_of_beforeLastDot {sv message : List Char} (h : beforeLastDot sv = some message)
    (secret : List Char) (s : State) : unsign sv secret s = caught none
      (continueWith (sign message secret s) fun t expected =>
        continueWith (ctEqual (utf8 expected) (utf8 sv) t) fun u equal =>
          (u, .ok (if equal then some message else none))) := by
  rw [unsign, h]

theorem unsign_of_no_dot {sv : List Char} (h : '.' ∉ sv) (secret : List Char) (s : State) :
    unsign sv secret s = (s, .ok none) := by
  rw [unsign, beforeLastDot, if_neg h]

theorem length_sha256 (m : List Byte) : (Reference.sha256 m).length = 32 := by
  simp [Reference.sha256, List.length_flatMap, be32]

/-- A signed value has its last '.' before the signature: base64 has none. -/
theorem beforeLastDot_signedWith (message secret : List Char) :
    beforeLastDot (signedWith message secret) = some message := by
  obtain ⟨-, -, hdot, -⟩ := base64_of_digest (d := Reference.hmac (utf8 secret) (utf8 message))
    (length_sha256 _)
  exact beforeLastDot_append message hdot

/-- unsign on a block that is ready for a digest and a comparison: the message of its signed value, and
null for every other value. -/
theorem unsign_of_quiescent {sv secret message : List Char} {s : State} (hl : s.err.locked = false)
    (hq : s.hs.quiescent = true) (hs : s.cmp.cs ≠ .active) (hsecret : secret ≠ [])
    (h : beforeLastDot sv = some message) : (unsign sv secret s).2 =
      .ok (if signedWith message secret = sv then some message else none) := by
  obtain ⟨t, hsign, htl, -, hcmp⟩ := sign_of_quiescent message hl hq hsecret
  obtain ⟨u, hequal, -⟩ := ctEqual_of_idle (utf8 (signedWith message secret)) (utf8 sv) htl
    (by rwa [hcmp])
  rw [unsign_of_beforeLastDot h, hsign, continueWith_ok, hequal, continueWith_ok, caught_ok]
  simp [utf8_injective.eq_iff]

/-- Settles O58: the block is ready again after sign, and the signed value splits at its last '.'. -/
theorem signThenUnsignReturnsTheMessage : Obligations.SignThenUnsignReturnsTheMessage := by
  intro message secret s hl hq hs hsecret
  obtain ⟨t, hsign, htl, htq, hcmp⟩ := sign_of_quiescent message hl hq hsecret
  refine ⟨signedWith message secret, by rw [hsign], ?_⟩
  rw [hsign, unsign_of_quiescent htl htq (by rwa [hcmp]) hsecret (beforeLastDot_signedWith _ _),
    if_pos rfl]

/-! ### What unsign accepts (rule R221 items 2 and 4) -/

/-- Only a value that is there goes through the boundary as one. -/
theorem ok_some_of_caught {α : Type} {o : Outcome (Option α)} {a : α}
    (h : (caught none o).2 = .ok (some a)) : o.2 = .ok (some a) := by
  obtain ⟨t, (_ | _) | b⟩ := o
  · cases h
  · cases h
  · exact h

/-- A procedure that ends with a value has gone on with one. -/
theorem exists_of_continueWith {α β : Type} {o : Outcome α} {onward : State → α → Outcome β} {b : β}
    (h : (continueWith o onward).2 = .ok b) : ∃ t a, o = (t, .ok a) ∧ (onward t a).2 = .ok b := by
  obtain ⟨t, f | a⟩ := o
  · cases h
  · exact ⟨t, a, rfl, h⟩

/-- Everything CT_EQUAL can do, in every state. -/
theorem ctEqual_cases (a b : List Byte) (s : State) :
    (∃ t, ctEqual a b s = (t, .ok (decide (a = b)))) ∨
    ctEqual a b s = (resetBlock s, .error .internal) ∨
    (s.err.locked = true ∧ s.err.code = .unsupportedAlg ∧
      ∃ t, ctEqual a b s = (t, .error .unsupportedAlgorithm)) := by
  cases hl : s.err.locked with
  | true =>
    by_cases hcode : s.err.code = .unsupportedAlg
    · obtain ⟨t, hequal, -⟩ := ctEqual_of_unsupported a b hl hcode
      exact .inr (.inr ⟨rfl, hcode, t, hequal⟩)
    · exact .inr (.inl (ctEqual_of_busy a b (.inl ⟨hl, hcode⟩)))
  | false =>
    by_cases hs : s.cmp.cs = .active
    · exact .inr (.inl (ctEqual_of_busy a b (.inr ⟨hl, hs⟩)))
    · obtain ⟨t, hequal, -⟩ := ctEqual_of_idle a b hl hs
      exact .inl ⟨t, hequal⟩

/-- A verdict of CT_EQUAL is equality. -/
theorem eq_of_ctEqual {a b : List Byte} {s t : State} (h : ctEqual a b s = (t, .ok true)) :
    a = b := by
  obtain ⟨u, hu⟩ | hu | ⟨-, -, u, hu⟩ := ctEqual_cases a b s
  · have hverdict : decide (a = b) = true := Except.ok.inj (congrArg Prod.snd (hu.symm.trans h))
    exact of_decide_eq_true hverdict
  · simp [hu] at h
  · simp [hu] at h

/-- What unsign accepts is what sign makes of the part before its last '.'. -/
theorem signed_of_unsign {sv secret message : List Char} {s : State}
    (h : (unsign sv secret s).2 = .ok (some message)) :
    beforeLastDot sv = some message ∧ (sign message secret s).2 = .ok sv := by
  cases hdot : beforeLastDot sv with
  | none =>
    rw [unsign, hdot] at h
    cases h
  | some m =>
    rw [unsign_of_beforeLastDot hdot] at h
    obtain ⟨t, expected, hsign, hcompare⟩ := exists_of_continueWith (ok_some_of_caught h)
    obtain ⟨u, equal, hequal, haccept⟩ := exists_of_continueWith hcompare
    cases equal with
    | false => cases haccept
    | true =>
      have hsame : expected = sv := utf8_injective (eq_of_ctEqual hequal)
      cases haccept
      exact ⟨rfl, by rw [hsign, hsame]⟩

/-- Where sign makes another value, and the block is not locked by UNSUPPORTED_ALG, unsign is null. -/
theorem unsign_of_other {sv secret message expected : List Char} {s t : State}
    (hdot : beforeLastDot sv = some message) (hsign : sign message secret s = (t, .ok expected))
    (hne : expected ≠ sv) (hcode : t.err.locked = true → t.err.code ≠ .unsupportedAlg) :
    (unsign sv secret s).2 = .ok none := by
  have hbytes : utf8 expected ≠ utf8 sv := utf8_injective.ne hne
  rw [unsign_of_beforeLastDot hdot, hsign, continueWith_ok]
  obtain ⟨u, hu⟩ | hu | ⟨hl, hunsupported, -⟩ := ctEqual_cases (utf8 expected) (utf8 sv) t
  · rw [hu, decide_eq_false hbytes]
    rfl
  · rw [hu]
    rfl
  · exact absurd hunsupported (hcode hl)

/-- The part before the last '.' is not the whole value. -/
theorem ne_of_beforeLastDot {sv message : List Char} (h : beforeLastDot sv = some message) :
    message ≠ sv := by
  rintro rfl
  exact Nat.lt_irrefl _ (length_lt_of_beforeLastDot h)

/-- Settles O59: unsign accepts by CT_EQUAL alone, and where sign gives the bare message, no value with
a '.' is that message. -/
theorem unsignAcceptsOnlySignedValues : Obligations.UnsignAcceptsOnlySignedValues := by
  refine ⟨fun sv secret message s h => ?accepts, fun sv s hcode => ?empty,
    fun sv secret message s hl hq hs hsecret hdot => ?ready,
    fun sv secret s hdot => unsign_of_no_dot hdot secret s,
    fun message secret s hsecret hbusy => ?busy,
    fun message secret s hsecret hl hcode => ?unsupported⟩
  case accepts =>
    obtain ⟨hdot, hsign⟩ := signed_of_unsign h
    refine ⟨hdot, hsign, ?_⟩
    rintro rfl
    exact ne_of_beforeLastDot hdot (Except.ok.inj hsign)
  case empty =>
    by_cases hdot : '.' ∈ sv
    · obtain ⟨message, hmessage⟩ : ∃ message, beforeLastDot sv = some message :=
        ⟨_, if_pos hdot⟩
      exact unsign_of_other hmessage (sign_empty message s) (ne_of_beforeLastDot hmessage) hcode
    · rw [unsign_of_no_dot hdot]
  case ready =>
    obtain ⟨t, hsign, -⟩ := sign_of_quiescent message hl hq hsecret
    exact ⟨signedWith message secret, by rw [hsign], unsign_of_quiescent hl hq hs hsecret hdot⟩
  case busy =>
    have hsign := sign_of_busy message hsecret hbusy
    exact ⟨hsign, fun sv hdot =>
      unsign_of_other hdot hsign (ne_of_beforeLastDot hdot) (by simp [ErrRegs.reset])⟩
  case unsupported =>
    have hsign := sign_of_unsupported message hsecret hl hcode
    refine ⟨hsign, fun sv hdot => ?_⟩
    rw [unsign_of_beforeLastDot hdot, hsign, continueWith_error, caught_unsupported]

end Sys2Proof.Machine.Boundary
end

section
/-!
The comparison unit's commands: what each does in every state, and the verdict of a comparison
(obligations O16, O17, O18, O54).
-/

namespace Sys2Proof.Machine

/-! ### CMP.BEGIN (rule R231) -/

theorem beginCompare_eq_done {c : CmpRegs} (h : c.lenA ≠ c.lenB) :
    beginCompare c = { c with acc := 0, eq := false, remain := 0, cs := .done } := if_pos h

theorem beginCompare_eq_active {c : CmpRegs} (h : c.lenA = c.lenB) :
    beginCompare c = { c with acc := 0, eq := false, remain := c.lenA, cs := .active } :=
  if_neg (not_not_intro h)

/-- Settles O16: the one check is that no comparison is active, and the declared lengths decide. -/
theorem cmpBeginChecksTheLengths : Obligations.CmpBeginChecksTheLengths := by
  refine ⟨fun s hl => exec_locked (by decide) hl, fun s hl hs => ?active,
    fun s hl hs hne => ?different, fun s hl hs heq => ?equal,
    fun c s hl hop hne => serveCommand_illegal hl (decode_error_of_ne hop rfl rfl hne)⟩
  case active => exact exec_fails (i := .cmpBegin) (by decide) hl (by simp [checksOf, hs])
  case different =>
    rw [exec_cmpBegin hl hs, beginCompare_eq_done hne]
    rfl
  case equal =>
    rw [exec_cmpBegin hl hs, beginCompare_eq_active heq]
    rfl

/-! ### CMP.FEED (rule R232) -/

/-- The accumulation over the pairs of the two windows, index by index. -/
theorem accumulate_feedPairs {n : Byte} (hn : n.toNat ≤ 64) (acc : Byte) (s : State) :
    accumulate acc (feedPairs n s) = (List.range n.toNat).foldl
      (fun acc i => acc ||| (s.data.getD i 0 ^^^ s.datb.getD i 0)) acc := by
  rw [accumulate, feedPairs, firstBytes_eq_map hn, firstBytes_eq_map hn, List.zip_map',
    List.foldl_map]

/-- CMP_REMAIN does not wrap when at most CMP_REMAIN bytes are fed. -/
theorem toNat_remain_sub_count {remain : Word} {n : Byte} (h : n.toNat ≤ remain.toNat) :
    (remain - n.setWidth 32).toNat = remain.toNat - n.toNat := by
  have hwidth : (n.setWidth 32).toNat = n.toNat := BitVec.toNat_setWidth_of_le (by decide)
  rw [BitVec.toNat_sub_of_le (by rwa [BitVec.le_def, hwidth]), hwidth]

/-- Settles O17: the three checks of CMP.FEED in their order, and the pairs accumulated. -/
theorem cmpFeedAccumulatesNPairs : Obligations.CmpFeedAccumulatesNPairs := by
  refine ⟨fun n s hl => exec_locked (by simp) hl, fun n s hl hn => ?tooLong,
    fun n s hl hn hs => ?inactive, fun n s hl hn hs hover => ?overrun,
    fun n s hl hn hs hfits => ?feeds,
    fun c s hl hop hhigh => serveCommand_illegal hl (decode_error_of_high_bits hop rfl hhigh)⟩
  case tooLong => exact exec_fails (i := .cmpFeed n) (by simp) hl (by simp [checksOf, hn])
  case inactive =>
    exact exec_fails (i := .cmpFeed n) (by simp) hl (by simp [checksOf, Nat.not_lt.mpr hn, hs])
  case overrun =>
    exact exec_fails (i := .cmpFeed n) (by simp) hl
      (by simp [checksOf, Nat.not_lt.mpr hn, hs, hover])
  case feeds =>
    refine ⟨_, toNat_remain_sub_count hfits, ?_⟩
    rw [exec_cmpFeed hl hn hs hfits, ← accumulate_feedPairs hn]
    rfl

/-! ### CMP.END (rule R233) -/

theorem endCompare_of_active {c : CmpRegs} (h : c.cs = .active) :
    endCompare c = { c with eq := decide (c.acc = 0), acc := 0, cs := .done } := by
  rw [endCompare, if_pos h, Bool.beq_eq_decide_eq]

/-- CMP.END in DONE is a no-op. -/
theorem exec_cmpEnd_of_done {s : State} (hl : s.err.locked = false) (hs : s.cmp.cs = .done) :
    exec .cmpEnd s = .next s := by
  have hkeeps : endCompare s.cmp = s.cmp := if_neg (by simp [hs])
  rw [exec_runs (by decide) hl (by simp [checksOf, hs]), effectOf, hkeeps]
  rfl

/-- Settles O18: the two checks of CMP.END in their order, and the verdict from the accumulator. -/
theorem cmpEndGivesTheVerdict : Obligations.CmpEndGivesTheVerdict := by
  refine ⟨fun s hl => exec_locked (by decide) hl, fun s hl hs => ?idle,
    fun s hl hs hremain => ?incomplete, fun s hl hs hremain => ?verdict,
    fun s hl hs => exec_cmpEnd_of_done hl hs,
    fun c s hl hop hne => serveCommand_illegal hl (decode_error_of_ne hop rfl rfl hne)⟩
  case idle => exact exec_fails (i := .cmpEnd) (by decide) hl (by simp [checksOf, hs])
  case incomplete =>
    have hleft : ¬ s.cmp.remain = 0#32 := hremain
    exact exec_fails (i := .cmpEnd) (by decide) hl (by simp [checksOf, hs, hleft])
  case verdict =>
    rw [exec_cmpEnd hl hs hremain, endCompare_of_active hs]
    rfl

/-! ### The verdict of a comparison (rules R230, R234) -/

/-- While bytes may still be fed, CMP_REMAIN counts them. -/
theorem State.Compared.count_le_remain {total : Nat} {a b : List Byte} {n : Nat} {s : State}
    (h : s.Compared total a b) (hfits : a.length + n ≤ total) : n ≤ s.cmp.remain.toNat := by
  obtain ⟨-, -, htotal, -⟩ := h
  omega

/-- When all bytes have been fed, CMP_REMAIN is zero. -/
theorem State.Compared.remain_eq_zero {a b : List Byte} {s : State}
    (h : s.Compared a.length a b) : s.cmp.remain = 0 := by
  obtain ⟨-, -, htotal, -⟩ := h
  exact BitVec.eq_of_toNat_eq (Nat.add_eq_right.mp htotal)

/-- Settles O54: from CMP.BEGIN through every CMP.FEED to CMP.END, the accumulator is zero exactly
when the strings fed so far are equal. -/
theorem comparisonVerdictIsEquality : Obligations.ComparisonVerdictIsEquality := by
  refine ⟨fun s hl hs heq => ?begins, fun total a b n s hl hcompared hn hfits => ?feeds,
    fun a b s hl hcompared => ?ends, fun s hl hs hne => ?different⟩
  case begins => exact ⟨_, exec_cmpBegin hl hs, State.compared_begin heq, rfl⟩
  case feeds =>
    have hremain := hcompared.count_le_remain hfits
    exact ⟨_, exec_cmpFeed hl hn hcompared.1 hremain, State.compared_feed hcompared hn hremain, rfl⟩
  case ends =>
    obtain ⟨hdone, hverdict⟩ := State.compared_end hcompared
    exact ⟨_, exec_cmpEnd hl hcompared.1 hcompared.remain_eq_zero, hdone, hverdict, rfl⟩
  case different =>
    obtain ⟨hdone, hverdict⟩ := beginCompare_of_length_ne hne
    exact ⟨_, exec_cmpBegin hl hs, exec_cmpEnd_of_done hl hdone, hdone, hverdict⟩

end Sys2Proof.Machine
end

section
/-!
The control commands: NOP's word and its absence of effect, and SOFT_RESET from every state
(obligations O6, O7).
-/

namespace Sys2Proof.Machine

/-! ### NOP (rule R250) -/

/-- NOP keeps every state: a locked block ignores it, and an unlocked one finds no check to fail and
no effect to have. -/
theorem exec_nop (s : State) : exec .nop s = .next s := by
  cases hl : s.err.locked with
  | true => exact exec_locked (by decide) hl
  | false => exact exec_runs (by decide) hl rfl

theorem encode_nop : encode .nop = 0x00000000 := by decide

/-- Settles O6: the words that decode to NOP are its encoding alone. -/
theorem nopChangesNothing : Obligations.NopChangesNothing := by
  refine ⟨exec_nop, fun c => ?_⟩
  rw [decodesExactlyTheEncodedWord c .nop, encode_nop]
  exact eq_comm

/-! ### SOFT_RESET (rule R251) -/

/-- SOFT_RESET's word is served as its command in every state, the locked one included. -/
theorem serveCommand_softReset (s : State) : serveCommand 0x000000FF s = exec .softReset s :=
  serveCommand_of_decode_ok ((decodesExactlyTheEncodedWord _ _).mpr encode_softReset) s

/-- A locked block ignores every word but SOFT_RESET's (rules R96, R264). -/
theorem serveCommand_locked {c : Word} {s : State} (hl : s.err.locked = true)
    (hne : c ≠ 0x000000FF) : serveCommand c s = .next s := by
  rw [serveCommand, if_pos hl, if_neg hne]

/-- Settles O7: SOFT_RESET and the hardware reset are the same reset of the block, and 0xFF takes no
operand. -/
theorem softResetRestoresTheResetState : Obligations.SoftResetRestoresTheResetState := by
  refine ⟨exec_softReset, fun s _ => ?locked, fun s => (exec_softReset s).symm, by decide,
    fun c s hop hne => ⟨fun hl => ?illegal, fun hl => serveCommand_locked hl hne⟩⟩
  case locked =>
    rw [serveCommand_softReset, exec_softReset]
    rfl
  case illegal => exact serveCommand_illegal hl (decode_error_of_ne hop rfl rfl hne)

end Sys2Proof.Machine
end

section
/-!
Command errors and bus errors: the error a failing command reports, the locked state and the way out of
it (obligations O28, O29, O30, O31, O32, O33, O45).
-/

namespace Sys2Proof.Machine

/-! ### The error registers under a command (rules R262–R265) -/

/-- No effect but SOFT_RESET's writes the error registers. -/
theorem effectOf_err {i : Instr} (hi : i ≠ .softReset) (s : State) :
    (effectOf i s).err = s.err := by
  obtain ⟨-, -, -, -, -, -, herr⟩ := effectOf_dataRegisters hi s
  exact herr

/-- No effect locks the block: SOFT_RESET's unlocks it, the others leave the lock alone. -/
theorem effectOf_unlocked (i : Instr) {s : State} (hl : s.err.locked = false) :
    (effectOf i s).err.locked = false := by
  by_cases hi : i = .softReset
  · rw [hi]
    rfl
  · rw [effectOf_err hi, hl]

/-- SOFT_RESET makes no check, so it reports no error. -/
theorem ne_softReset_of_firstFailing {i : Instr} {s : State} {code : ErrCode}
    (h : firstFailing (checksOf i s) = some code) : i ≠ .softReset := by
  rintro rfl
  cases h

/-- A command locks the block exactly by reporting the first error of the table. -/
theorem firstError_of_exec_locks {i : Instr} {s t : State} (hl : s.err.locked = false)
    (hexec : exec i s = .next t) (hlocks : t.err.locked = true) :
    ∃ code, Reference.firstError i s = some code ∧ t.err = ⟨true, code, encode i⟩ := by
  rw [firstError_eq_firstFailing]
  cases hchecks : firstFailing (checksOf i s) with
  | some code =>
    rw [exec_fails (ne_softReset_of_firstFailing hchecks) hl hchecks] at hexec
    cases hexec
    exact ⟨code, rfl, rfl⟩
  | none =>
    rw [exec_passes hl hchecks] at hexec
    cases hexec
    rw [effectOf_unlocked i hl] at hlocks
    cases hlocks

/-- Settles O28: a word of no row does not decode, and the checks of a command are those of the table. -/
theorem firstFailingCheckIsReported : Obligations.FirstFailingCheckIsReported := by
  refine ⟨fun c s hl hrows => ?illegal, fun i s code hl hfirst => ?fails, fun i s hl hfirst => ?runs⟩
  case illegal =>
    cases hdecode : decode c with
    | error e => exact serveCommand_of_decode_error hdecode hl
    | ok i =>
      obtain ⟨r, hr, haccepts, -⟩ := exists_row_of_decode_ok hdecode
      rw [hrows r hr] at haccepts
      cases haccepts
  case fails =>
    rw [firstError_eq_firstFailing] at hfirst
    exact exec_fails (ne_softReset_of_firstFailing hfirst) hl hfirst
  case runs =>
    rw [firstError_eq_firstFailing] at hfirst
    exact ⟨_, exec_passes hl hfirst, effectOf_unlocked i hl⟩

/-! ### The causes of the errors (rule R261) -/

theorem wrongAlg_iff (i : Instr) :
    Reference.wrongAlg i = true ↔ ∃ alg, i = .hmacBegin alg ∧ alg ≠ 0x01 := by
  cases i <;> simp [Reference.wrongAlg]

theorem feedsTooMany_iff (i : Instr) (s : State) : Reference.feedsTooMany i s = true ↔
    ∃ n, i = .cmpFeed n ∧ s.cmp.remain.toNat < n.toNat := by
  cases i <;> simp [Reference.feedsTooMany]

/-- Each error of the table comes with what the command and the state were to cause it. -/
theorem cause_of_firstError {i : Instr} {s : State} {code : ErrCode}
    (h : Reference.firstError i s = some code) :
    code = .badLen ∧ (∃ n, Reference.countOf i = some n ∧
        (64 < n.toNat ∨ (i = .cmpFeed n ∧ s.cmp.remain.toNat < n.toNat))) ∨
      code = .unsupportedAlg ∧ (∃ alg, i = .hmacBegin alg ∧ alg ≠ 0x01) ∨
      code = .sequence ∧ Reference.legalIn i s.hs s.cmp.cs = false ∧ i ≠ .nop ∧ i ≠ .softReset ∨
      code = .cmpIncomplete ∧ i = .cmpEnd ∧ s.cmp.cs = .active ∧ s.cmp.remain ≠ 0 := by
  unfold Reference.firstError at h
  split_ifs at h with hcount halg hlegal hfeed hend <;> cases h
  · obtain ⟨n, hn, hlong⟩ := (Option.any_eq_true _ _).mp hcount
    exact .inl ⟨rfl, n, hn, .inl (by simpa using hlong)⟩
  · exact .inr (.inl ⟨rfl, (wrongAlg_iff i).mp halg⟩)
  · refine .inr (.inr (.inl ⟨rfl, by simpa using hlegal, ?_, ?_⟩)) <;>
    · rintro rfl
      cases hlegal
  · obtain ⟨n, rfl, hn⟩ := (feedsTooMany_iff i s).mp hfeed
    exact .inl ⟨rfl, n, rfl, .inr ⟨rfl, hn⟩⟩
  · exact .inr (.inr (.inr ⟨rfl, by simpa [Reference.endsEarly] using hend⟩))

/-- ILLEGAL_CMD is the error of no command: the checks of a decoded command come after it. -/
theorem firstError_ne_illegalCmd {i : Instr} {s : State} :
    Reference.firstError i s ≠ some .illegalCmd := by
  intro h
  obtain ⟨hcode, -⟩ | ⟨hcode, -⟩ | ⟨hcode, -⟩ | ⟨hcode, -⟩ := cause_of_firstError h <;> cases hcode

/-- Settles O32: a decoded command locks the block with an error of the table, and a word of no row
with ILLEGAL_CMD. -/
theorem errorCodesNameTheirCauses : Obligations.ErrorCodesNameTheirCauses := by
  refine ⟨⟨rfl, rfl, rfl, rfl, rfl, rfl, fun code => ?bytes⟩, fun i s t hl hexec hlocks => ?causes,
    fun c s t hl hserve => ⟨fun ⟨e, he⟩ => ?illegal, fun hlocks hcode => ?undecoded⟩⟩
  case bytes => cases code <;> decide
  case causes =>
    obtain ⟨code, hfirst, herr⟩ := firstError_of_exec_locks hl hexec hlocks
    rw [herr]
    exact ⟨rfl, cause_of_firstError hfirst⟩
  case illegal =>
    rw [serveCommand_of_decode_error he hl] at hserve
    cases hserve
    rfl
  case undecoded =>
    cases hdecode : decode c with
    | error e => exact ⟨e, rfl⟩
    | ok i =>
      rw [serveCommand_of_decode_ok hdecode] at hserve
      obtain ⟨code, hfirst, herr⟩ := firstError_of_exec_locks hl hserve hlocks
      obtain rfl : code = .illegalCmd := by simpa [herr] using hcode
      exact absurd hfirst firstError_ne_illegalCmd

/-! ### The locked state (rule R264) -/

/-- A register write neither reads nor writes the error registers. -/
theorem regWrite_withErr (off : Offset) (v : Word) (s : State) (e : ErrRegs) :
    regWrite off v (s.withErr e) = (regWrite off v s).withErr e := by
  unfold regWrite
  split_ifs <;> rfl

/-- Only STATUS, ERRCODE and ERRCMD show the error registers. -/
theorem regRead_withErr {off : Offset} (hstatus : off ≠ offStatus) (hcode : off ≠ offErrcode)
    (hcmd : off ≠ offErrcmd) (s : State) (e : ErrRegs) :
    regRead off (s.withErr e) = regRead off s := by
  unfold regRead
  rw [if_neg hstatus, if_neg hcode, if_neg hcmd, if_neg hstatus, if_neg hcode, if_neg hcmd]
  rfl

/-- Settles O29: what a command checks is the lock; what the rest of the bus reads and writes lies
outside the error registers. -/
theorem lockedBlockIgnoresCommands : Obligations.LockedBlockIgnoresCommands := by
  refine ⟨fun c s => serveCommand_locked, fun i s hl hi => exec_locked hi hl,
    fun off v s e hoff => ⟨_, busWrite_register off v s hoff, ?_⟩,
    fun off s e hstatus hcode hcmd => regRead_withErr hstatus hcode hcmd s e⟩
  exact (busWrite_register off v _ hoff).trans (congrArg _ (regWrite_withErr off v s e))

/-! ### Accesses that are not accepted (rules R61, R266) -/

theorem accepted_eq_false {off : Offset} {size : Nat} (h : size ≠ 4 ∨ off.toNat % 4 ≠ 0) :
    accepted off size = false := by
  obtain h | h := h <;> simp [accepted, h]

theorem serve_read_refused {off : Offset} {size : Nat} (h : accepted off size = false) (s : State) :
    serve (.read off size) s = .next (respond (.readError 0) s) := by
  simp [serve, h]

theorem serve_write_refused {off : Offset} {size : Nat} (h : accepted off size = false) (v : Word)
    (s : State) : serve (.write off size v) s = .next (respond .writeError s) := by
  simp [serve, h]

/-- Settles O33: an access that is not accepted is answered, and nothing else. -/
theorem busErrorsChangeNothing : Obligations.BusErrorsChangeNothing := by
  refine ⟨fun s off size rest hport hrefused => ?_, fun s off size v rest hport hrefused => ?_⟩
  · exact (step_cons s _ rest hport).trans (serve_read_refused (accepted_eq_false hrefused) _)
  · exact (step_cons s _ rest hport).trans (serve_write_refused (accepted_eq_false hrefused) v _)

/-! ### Entering and leaving the lock (rules R260, R263, R265) -/

/-- Everything a write to CMD can do to the error registers: leave them, reset the block by
SOFT_RESET's word, or, at an unlocked block, enter an error with the word written. -/
theorem serveCommand_err_cases (c : Word) (s : State) :
    (∃ t, serveCommand c s = .next t ∧ t.err = s.err) ∨
    (c = 0x000000FF ∧ serveCommand c s = .next (resetBlock s)) ∨
    (s.err.locked = false ∧ ∃ code, code ≠ ErrCode.none ∧
      serveCommand c s = .next (raiseErr code c s)) := by
  by_cases hreset : c = 0x000000FF
  · subst hreset
    exact .inr (.inl ⟨rfl, serveCommand_softReset s⟩)
  cases hl : s.err.locked with
  | true => exact .inl ⟨s, serveCommand_locked hl hreset, rfl⟩
  | false =>
    cases hdecode : decode c with
    | error e =>
      exact .inr (.inr ⟨rfl, .illegalCmd, by decide, serveCommand_of_decode_error hdecode hl⟩)
    | ok i =>
      obtain rfl := (decodesExactlyTheEncodedWord c i).mp hdecode
      have hi : i ≠ .softReset := by
        rintro rfl
        exact hreset encode_softReset
      rw [serveCommand_of_decode_ok hdecode]
      cases hchecks : firstFailing (checksOf i s) with
      | some code =>
        exact .inr (.inr ⟨rfl, code, code_ne_none_of_firstFailing hchecks, exec_fails hi hl hchecks⟩)
      | none => exact .inl ⟨_, exec_runs hi hl hchecks, effectOf_err hi s⟩

@[simp] theorem regWrite_err (off : Offset) (v : Word) (s : State) :
    (regWrite off v s).err = s.err := by
  obtain ⟨a, b, h⟩ | ⟨x, h⟩ | ⟨x, h⟩ := regWrite_cases off v s <;> rw [h] <;> rfl

/-- The same for a write to any register: only CMD's can write the error registers. -/
theorem busWrite_err_cases (off : Offset) (v : Word) (s : State) :
    (∃ t, busWrite off v s = .next t ∧ t.err = s.err) ∨
    (off = offCmd ∧ v = 0x000000FF ∧ busWrite off v s = .next (resetBlock s)) ∨
    (off = offCmd ∧ s.err.locked = false ∧ ∃ code, code ≠ ErrCode.none ∧
      busWrite off v s = .next (raiseErr code v s)) := by
  by_cases hoff : off = offCmd
  · subst hoff
    simpa [busWrite_command] using serveCommand_err_cases v s
  · exact .inl ⟨_, busWrite_register off v s hoff, regWrite_err off v s⟩

/-- The block's reset gives the registers of the reset state, with whatever is pending or answered. -/
theorem sameRegisters_resetBlock (s : State) : (resetBlock s).sameRegisters State.reset := rfl

/-- Everything a step can do to the error registers: it leaves them; or it serves a reset; or it serves,
at an unlocked block, a write to CMD whose word enters an error and does nothing else. -/
theorem step_err_cases {s t : State} (hstep : step s = .next t) :
    t.err = s.err ∨
    (∃ rest, (s.port = .hardReset :: rest ∨ s.port = .write 0x14 4 0x000000FF :: rest) ∧
      t.sameRegisters State.reset) ∨
    (s.err.locked = false ∧ ∃ c rest code, s.port = .write 0x14 4 c :: rest ∧ code ≠ ErrCode.none ∧
      t = respond .written (raiseErr code c (s.withPort rest))) := by
  cases hport : s.port with
  | nil =>
    rw [step_nil s hport] at hstep
    cases hstep
    exact .inl rfl
  | cons e rest =>
    rw [step_cons s e rest hport] at hstep
    cases e with
    | read off size =>
      cases haccepted : accepted off size with
      | false =>
        rw [serve_read_refused haccepted] at hstep
        cases hstep
        exact .inl rfl
      | true =>
        rw [serve_read_accepted off size _ haccepted] at hstep
        cases hstep
        exact .inl rfl
    | hardReset =>
      cases hstep
      exact .inr (.inl ⟨rest, .inl rfl, sameRegisters_resetBlock (s.withPort rest)⟩)
    | write off size v =>
      cases haccepted : accepted off size with
      | false =>
        rw [serve_write_refused haccepted] at hstep
        cases hstep
        exact .inl rfl
      | true =>
        rw [serve_write_accepted off size v _ haccepted] at hstep
        obtain ⟨rfl, -⟩ : size = 4 ∧ off.toNat % 4 = 0 := by simpa [accepted] using haccepted
        obtain ⟨u, hwrite, herr⟩ | ⟨rfl, rfl, hwrite⟩ | ⟨rfl, hl, code, hcode, hwrite⟩ :=
          busWrite_err_cases off v (s.withPort rest) <;> rw [hwrite] at hstep <;> cases hstep
        · exact .inl herr
        · exact .inr (.inl ⟨rest, .inr rfl, sameRegisters_resetBlock (s.withPort rest)⟩)
        · exact .inr (.inr ⟨hl, v, rest, code, rfl, hcode, rfl⟩)

/-- Settles O30: of what a step can do to the error registers, only an error entry needs an unlocked
block. -/
theorem onlyResetLeavesTheLock : Obligations.OnlyResetLeavesTheLock := by
  intro s t hl hstep
  obtain hkept | hreset | ⟨hunlocked, -⟩ := step_err_cases hstep
  · exact .inl hkept
  · exact .inr hreset
  · rw [hl] at hunlocked
    cases hunlocked

/-- Settles O31: of what a step can do to the error registers, only an error entry locks the block. -/
theorem errorsArePreciseAndSynchronous : Obligations.ErrorsArePreciseAndSynchronous := by
  intro s t hl hstep hlocks
  obtain hkept | ⟨rest, -, hreset⟩ | ⟨-, c, rest, code, hport, hcode, rfl⟩ := step_err_cases hstep
  · rw [hkept, hl] at hlocks
    cases hlocks
  · have herr : t.err = .reset := congrArg State.err hreset
    rw [herr] at hlocks
    cases hlocks
  · exact ⟨c, rest, code, hport, hcode, rfl⟩

/-! ### No stop (rule R276) -/

/-- Settles O45: a block with nothing pending waits, every event is served, and a command is ignored,
reports an error or has its effect. -/
theorem theMachineNeverStops : Obligations.TheMachineNeverStops := by
  constructor
  · intro s
    cases hport : s.port with
    | nil => exact ⟨s, step_nil s hport⟩
    | cons e rest =>
      obtain ⟨t, -, hserve, -⟩ := serve_responses e (s.withPort rest)
      exact ⟨t, (step_cons s e rest hport).trans hserve⟩
  · intro i s
    obtain h | ⟨code, -, h⟩ | ⟨-, h⟩ := exec_cases i s <;> exact ⟨_, h⟩

end Sys2Proof.Machine
end

section
/-!
Compressions per command: the count of every error-free command (obligation O48).
-/

namespace Sys2Proof.Machine

/-! ### The operand count of a command whose checks pass (rules R91, R262) -/

theorem firstBytes_length_of_firstFailing {checks : List (ErrCode × Bool)} {n : Byte}
    (hpass : firstFailing checks = none) (hmem : badCount n ∈ checks) (v : Vector Byte 64) :
    (firstBytes n v).length = n.toNat := by
  have hcount := (firstFailing_eq_none_iff checks).mp hpass _ hmem
  exact firstBytes_length (by simpa using hcount) v

/-! ### The count after each data command (rule R296) -/

/-- HMAC.KEYEND compresses the padded key, after the last blocks of the key's hash where there is
one. -/
theorem startInner_normalizeKey_compressions {s : State} (hs : s.hs = .hkey ∨ s.hs = .hkeyh) :
    (startInner (normalizeKey s)).dp.compressions =
      s.dp.compressions + Reference.compressionCount .hmacKeyend s := by
  obtain ⟨-, -, hpad⟩ := Datapath.coreInit_absorbAll_padKey (normalizeKey s).dp ipad
    (normalizeKey s).mac.key
  rw [startInner_dp, hpad]
  obtain hkey | hkeyh := hs
  · rw [normalizeKey_of_hkey hkey]
    simp [Reference.compressionCount, hkey]
  · rw [normalizeKey_of_hkeyh hkeyh]
    simp [Reference.compressionCount, Reference.finalizeCount, hkeyh, finishLongKey,
      Datapath.finalized_compressions, Nat.add_assoc]

/-- What HMAC.FINAL leaves in the datapath is the outer hash, finalized. -/
theorem effectOf_hmacFinal_dp (s : State) : (effectOf .hmacFinal s).dp = s.outerHash.finalized := by
  rw [State.outerHash, Datapath.absorbAll_append, effectOf, publishMac_dp, absorbOuter_dp,
    finishInner_dp]
  simp only [finishInner, State.withMac, State.withDp]

/-- HMAC.FINAL compresses the last blocks of the inner hash, and two blocks for the 96 bytes of the
outer. -/
theorem effectOf_hmacFinal_compressions (s : State) : (effectOf .hmacFinal s).dp.compressions =
    s.dp.compressions + Reference.compressionCount .hmacFinal s := by
  obtain ⟨-, hblen, hcompressions⟩ := s.outerHash_registers
  rw [effectOf_hmacFinal_dp, Datapath.finalized_compressions, hcompressions, hblen,
    Datapath.finalized_compressions, Reference.compressionCount, Reference.finalizeCount]
  rfl

/-- The count after the effect of a command whose checks pass. -/
theorem effectOf_compressions {i : Instr} {s : State} (hi : i ≠ .softReset) (hinv : s.Inv)
    (hpass : firstFailing (checksOf i s) = none) :
    (effectOf i s).dp.compressions = s.dp.compressions + Reference.compressionCount i s := by
  cases i with
  | softReset => exact absurd rfl hi
  | shaUpdate n | hmacMsg n =>
    have hlength := firstBytes_length_of_firstFailing (n := n) hpass (by simp [checksOf]) s.data
    rw [effectOf, State.withDp_dp, Datapath.absorbAll_compressions, hlength]
    rfl
  | shaFinal => exact s.dp.finalized_compressions
  | hmacKey n =>
    have hlegal := legal_of_firstFailing hpass (legal := s.hs.keying) (by simp [checksOf])
    have hlength := firstBytes_length_of_firstFailing (n := n) hpass (by simp [checksOf]) s.data
    rw [effectOf, (keyDelivered_keyBytes _ hinv ((HS.keying_iff s.hs).mp hlegal)).compressions,
      hlength]
    rfl
  | hmacKeyend =>
    have hlegal := legal_of_firstFailing hpass (legal := s.hs.keying) (by simp [checksOf])
    exact startInner_normalizeKey_compressions ((HS.keying_iff s.hs).mp hlegal)
  | hmacFinal => exact effectOf_hmacFinal_compressions s
  | nop | shaInit | hmacBegin | cmpBegin | cmpFeed | cmpEnd => rfl

/-- Settles O48: a command that makes no error has its effect, and each effect counts its own
compressions. -/
theorem compressionsPerCommandAreFixed : Obligations.CompressionsPerCommandAreFixed := by
  intro i s t hinv hl hi hfirst hexec
  rw [firstError_eq_firstFailing] at hfirst
  rw [exec_passes hl hfirst] at hexec
  cases hexec
  exact effectOf_compressions hi hinv hfirst

end Sys2Proof.Machine
end

section
/-!
Reset: the value of every state element, and what the registers then read (obligation O38).
-/

namespace Sys2Proof.Machine

/-- Bytes that are all zero read as the word 0, at any index. -/
theorem laneRead_replicate_zero (k i : Nat) : laneRead (Vector.replicate k (0 : Byte)) i = 0 := by
  have hzero (j : Nat) : (Vector.replicate k (0 : Byte)).getD j 0 = 0 := by
    rw [Vector.getD, Vector.toArray_replicate, Array.getD]
    split <;> simp
  simp only [laneRead, hzero]
  rfl

/-- Right after reset every register but the two constant ones reads 0 (rule R290). -/
theorem regRead_reset (off : Offset) : regRead off State.reset =
    if off = offId then idValue else if off = offVersion then versionValue else 0 := by
  have hstatus : State.reset.status = 0 := by decide
  have herrcode : State.reset.errcodeWord = 0 := by decide
  have hcmd : State.reset.err.cmd = 0 := rfl
  have hlenA : State.reset.cmp.lenA = 0 := rfl
  have hlenB : State.reset.cmp.lenB = 0 := rfl
  have hremain : State.reset.cmp.remain = 0 := rfl
  have hdout (i : Nat) : laneRead State.reset.dout i = 0 := laneRead_replicate_zero 32 i
  have hdata (i : Nat) : laneRead State.reset.data i = 0 := laneRead_replicate_zero 64 i
  have hdatb (i : Nat) : laneRead State.reset.datb i = 0 := laneRead_replicate_zero 64 i
  simp only [regRead, hstatus, herrcode, hcmd, hlenA, hlenB, hremain, hdout, hdata, hdatb, ite_self]

/-- Settles O38: a hardware reset at the port is served by the block's reset, as SOFT_RESET is. -/
theorem resetSetsEveryElement : Obligations.ResetSetsEveryElement := by
  refine ⟨fun s rest hport => ?_, exec_softReset, fun off _ => regRead_reset off⟩
  exact ⟨resetBlock (s.withPort rest), step_cons s .hardReset rest hport, rfl, rfl, rfl, rfl, rfl,
    rfl, rfl, rfl, rfl, rfl, rfl, rfl, rfl, rfl, rfl, rfl, rfl, rfl, rfl, rfl, rfl,
    sameRegisters_resetBlock _, rfl, rfl⟩

end Sys2Proof.Machine
end
